-- ==== Sys2Proof/Word.lean ====
section
/-! DEFINITION. The widths of the values the CORE handles (spec 00_scope.md R10, R11; 10_state.md R21, R27). -/

namespace Sys2Proof

/-- One 8-bit character of the message buffer, or an 8-bit port or register (R11, R21, R27). -/
abbrev Byte := BitVec 8

/-- One hexadecimal digit: the 4-bit value of a character (R15 "Nibble", R100). -/
abbrev Nibble := BitVec 4

/-- A 16-bit output register (R27). -/
abbrev Half := BitVec 16

end Sys2Proof
end

