-- ==== Sys2Proof/Syntax.lean ====
section
/-! DEFINITION. The commands of the CORE: one constructor per row of spec/opcode_table.json (R80, R81, R83).
A command has no operand fields: an operation's operands come on the input ports (R80, R82). -/

namespace Sys2Proof

/-- What the 4-bit `OP` port selects. -/
inductive Instr where
  /-- `OP = 0x0`: the full decode pipeline (R192). -/
  | decode
  /-- `OP = 0x1`: one character to its nibble value (R101). -/
  | digit
  /-- `OP = 0x2`: up to four hex digits (R103). -/
  | hex
  /-- `OP = 0x3`: up to four BCD digits, in tenths (R105). -/
  | bcd
  /-- `OP = 0x4`: header comparator and protocol selector (R126). -/
  | ident
  /-- `OP = 0x5`: checksum and CRC-8 over a span (R176). -/
  | validate
  /-- `OP = 0x6`: the temp-only checksum over a body (R150). -/
  | tsum
  /-- `OP = 0x7`: reserved, performs `fail(ILLEGAL_OP)` (R83). -/
  | reserved7
  /-- `OP = 0x8..0xF`: reserved, performs `fail(ILLEGAL_OP)` (R83); `x` is `OP[2:0]`, any value. -/
  | reservedHigh (x : BitVec 3)
  deriving DecidableEq, Repr

end Sys2Proof
end

