-- ==== Sys2Proof/Config.lean ====
section
/-! DEFINITION. The three implementation parameters of the CORE (R8) and the constants the source fixes (R9).
The parameters are PLAIN DATA: a state carries its own instance's parameters, no step changes them (R22), and a statement that
does not fix them holds for every legal value (log entries 2 and 3). -/

namespace Sys2Proof

/-- The parameters of R8. What values are legal is `Config.Legal` (WellFormed.lean). -/
structure Config where
  /-- `MSG_MAX`: the number of positions of the message buffer (R60). -/
  msgMax : Nat
  /-- `CRC_ENFORCED`: whether a CRC mismatch ends an operation with CHECKSUM_MISMATCH (R175). -/
  crcEnforced : Bool
  /-- `CHANNEL_MAP`: entry `k` is the normalised channel of raw code `k` (R142). -/
  channelMap : Vector Nibble 16
  deriving DecidableEq, Repr

/-- The default `CHANNEL_MAP` of R8: code 4 maps to 3, every other code to itself. -/
def Config.defaultChannelMap : Vector Nibble 16 :=
  #v[0, 1, 2, 3, 3, 5, 6, 7, 8, 9, 10, 11, 12, 13, 14, 15]

/-- The defaults of R8: `MSG_MAX = 25`, `CRC_ENFORCED = false`, the default channel map. -/
def Config.default : Config where
  msgMax := 25
  crcEnforced := false
  channelMap := Config.defaultChannelMap

/-- The two sub-protocols of R2 and R124. -/
inductive SubProtocol where
  /-- Temp only (0xEC40), "TO" in the spec. -/
  | tempOnly
  /-- Temp+Humidity (0x1D20), "TH" in the spec. -/
  | tempHum
  deriving DecidableEq, Repr

end Sys2Proof
end

