-- ==== Sys2Proof/WellFormed.lean ====
section
/-! DEFINITION. Well-formedness of what the model is given: the commands (R80, R84) and the parameters (R8). -/

namespace Sys2Proof

/-- Is this command one the 4-bit `OP` port can carry? Every term of `Instr` is: each constructor's field has exactly the
width its row of the opcode table leaves free (three bits for `reservedHigh`, none for the rest), so no ill-formed command can be
written down. The checks that can refuse something are those of `Config.Legal` below and of a host line
(Machine/HostProgram.lean). -/
def Instr.wf : Instr → Bool
  | .decode => true
  | .digit => true
  | .hex => true
  | .bcd => true
  | .ident => true
  | .validate => true
  | .tsum => true
  | .reserved7 => true
  | .reservedHigh _ => true

/-- The constraints R8 puts on the parameters: `MSG_MAX >= 25` and the three channel codes the source fixes. -/
abbrev Config.Legal (c : Config) : Prop :=
  25 ≤ c.msgMax ∧ c.channelMap[1] = 1 ∧ c.channelMap[2] = 2 ∧ c.channelMap[4] = 3

end Sys2Proof
end

