-- ==== Sys2Proof/Decode.lean ====
section
/-! DEFINITION. Decoding and encoding of the `OP` port (R80, R81, R83, R84), written from the opcode map of R81. -/

namespace Sys2Proof

/-- R81, R83: what each of the 16 values of `OP` selects. Total: a reserved value is a command of its own. -/
def decodeOp (op : BitVec 4) : Instr :=
  if op = 0x0 then .decode
  else if op = 0x1 then .digit
  else if op = 0x2 then .hex
  else if op = 0x3 then .bcd
  else if op = 0x4 then .ident
  else if op = 0x5 then .validate
  else if op = 0x6 then .tsum
  else if op = 0x7 then .reserved7
  else .reservedHigh (op.extractLsb' 0 3)

/-- Why a number is no command. -/
inductive DecodeRefusal where
  /-- The number has a bit above `OP[3:0]`: R84, every command is exactly one 4-bit `OP` value. -/
  | widerThanOp
  deriving DecidableEq, Repr

/-- Decoding of any number as a command: R84 leaves only the 16 values of `OP`, and anything wider is refused by name
(log entry 12). -/
def decodeWord (w : Nat) : Except DecodeRefusal Instr :=
  if w < 16 then .ok (decodeOp (BitVec.ofNat 4 w)) else .error .widerThanOp

/-- The instruction the decoder reads from a table row's word. The table gives every row the bits `OP[3:0]`, so a word
is one `OP` value and its length says nothing more. -/
def decodeTableWord (_nbits w : Nat) : Option Instr :=
  match decodeWord w with
  | .ok i => some i
  | .error _ => none

/-- R81, R83: the `OP` value of a command. -/
def encode : Instr → BitVec 4
  | .decode => 0b0000
  | .digit => 0b0001
  | .hex => 0b0010
  | .bcd => 0b0011
  | .ident => 0b0100
  | .validate => 0b0101
  | .tsum => 0b0110
  | .reserved7 => 0b0111
  | .reservedHigh x => 0b1#1 ++ x

/-- One row of spec/opcode_table.json: an `OP` value belongs to the row if its bits under `mask` are `pattern`. -/
structure OpRow where
  /-- The row's `"mask"`. -/
  mask : BitVec 4
  /-- The row's `"match"`. -/
  pattern : BitVec 4
  deriving DecidableEq, Repr

/-- The row of spec/opcode_table.json that a command stands for. -/
def opRow : Instr → OpRow
  | .decode => ⟨0xF, 0x0⟩
  | .digit => ⟨0xF, 0x1⟩
  | .hex => ⟨0xF, 0x2⟩
  | .bcd => ⟨0xF, 0x3⟩
  | .ident => ⟨0xF, 0x4⟩
  | .validate => ⟨0xF, 0x5⟩
  | .tsum => ⟨0xF, 0x6⟩
  | .reserved7 => ⟨0xF, 0x7⟩
  | .reservedHigh _ => ⟨0x8, 0x8⟩

/-- Does the `OP` value belong to the row? -/
def OpRow.matchesOp (r : OpRow) (op : BitVec 4) : Bool := op &&& r.mask == r.pattern

end Sys2Proof
end

