-- ==== Sys2Proof/Machine/State.lean ====
section
/-! DEFINITION. What the machine holds: the output register file (R27), which is the only architectural state (R20), and
beside it, as plain data, the two things a step is a function of (R21, R22): the input ports as the host drives them and the
instance's parameters (log entries 1 and 2). -/

namespace Sys2Proof.Machine

/-- R25: the eight codes of the 3-bit `STATUS` register; every 3-bit value has a name. -/
inductive StatusCode where
  /-- 0: the operation completed with no error. -/
  | ok
  /-- 1: the dispatcher found no decoder. -/
  | noDecoder
  /-- 2: a character outside the expected alphabet. -/
  | invalidDigit
  /-- 3: a length failure (R211). -/
  | malformedLength
  /-- 4: the header matched and the 16-bit ID is not recognised. -/
  | unknownSubprotocol
  /-- 5: an integrity check failed. -/
  | checksumMismatch
  /-- 6: `OP` holds a reserved encoding. -/
  | illegalOp
  /-- 7: no operation has completed since reset. -/
  | idle
  deriving DecidableEq, Repr

/-- The names of the 23 output registers, in the order of R27. -/
inductive Reg where
  /-- `STATUS`. -/
  | status
  /-- `RESULT`. -/
  | result
  /-- `HAS_READING`. -/
  | hasReading
  /-- `VALID`. -/
  | valid
  /-- `CLASS`. -/
  | sensorClass
  /-- `SUBPROTO`. -/
  | subproto
  /-- `FAMILY_ID`. -/
  | familyId
  /-- `TEMP`. -/
  | temp
  /-- `TEMP_NEG`. -/
  | tempNeg
  /-- `HAS_TEMP`. -/
  | hasTemp
  /-- `HUM`. -/
  | hum
  /-- `HAS_HUM`. -/
  | hasHum
  /-- `BATT_LOW`. -/
  | battLow
  /-- `HAS_BATT`. -/
  | hasBatt
  /-- `CHANNEL`. -/
  | channel
  /-- `HAS_CHANNEL`. -/
  | hasChannel
  /-- `ROLLING`. -/
  | rolling
  /-- `SUM_CALC`. -/
  | sumCalc
  /-- `SUM_TX`. -/
  | sumTx
  /-- `CRC_CALC`. -/
  | crcCalc
  /-- `CRC_TX`. -/
  | crcTx
  /-- `CRC_PRESENT`. -/
  | crcPresent
  /-- `CRC_MATCH`. -/
  | crcMatch
  deriving DecidableEq, Repr

/-- The output register file, R27, in its order. A 1-bit register is a `Bool`. -/
structure OutRegs where
  /-- 0x00 `STATUS`, 3 bits. -/
  status : StatusCode
  /-- 0x01 `RESULT`: result of DIGIT, HEX or BCD. -/
  result : Half
  /-- 0x02 `HAS_READING`. -/
  hasReading : Bool
  /-- 0x03 `VALID`. -/
  valid : Bool
  /-- 0x04 `CLASS`: 0 NONE, 1 OREGON_SCIENTIFIC. -/
  sensorClass : BitVec 2
  /-- 0x05 `SUBPROTO`: 0 none, 1 TEMP_ONLY, 2 TEMP_HUM. -/
  subproto : BitVec 2
  /-- 0x06 `FAMILY_ID`. -/
  familyId : Half
  /-- 0x07 `TEMP`: two's complement tenths of a degree. -/
  temp : Half
  /-- 0x08 `TEMP_NEG`: the decoded sign flag. -/
  tempNeg : Bool
  /-- 0x09 `HAS_TEMP`. -/
  hasTemp : Bool
  /-- 0x0A `HUM`: unsigned tenths of a percent. -/
  hum : Half
  /-- 0x0B `HAS_HUM`. -/
  hasHum : Bool
  /-- 0x0C `BATT_LOW`. -/
  battLow : Bool
  /-- 0x0D `HAS_BATT`. -/
  hasBatt : Bool
  /-- 0x0E `CHANNEL`: the normalised channel. -/
  channel : Nibble
  /-- 0x0F `HAS_CHANNEL`. -/
  hasChannel : Bool
  /-- 0x10 `ROLLING`: the rolling code. -/
  rolling : Byte
  /-- 0x11 `SUM_CALC`: the computed checksum. -/
  sumCalc : Half
  /-- 0x12 `SUM_TX`: the transmitted checksum. -/
  sumTx : Byte
  /-- 0x13 `CRC_CALC`: the computed CRC-8. -/
  crcCalc : Byte
  /-- 0x14 `CRC_TX`: the transmitted CRC-8. -/
  crcTx : Byte
  /-- 0x15 `CRC_PRESENT`. -/
  crcPresent : Bool
  /-- 0x16 `CRC_MATCH`. -/
  crcMatch : Bool
  deriving DecidableEq, Repr

/-- R34: the reset value of every register: `STATUS = 7` (IDLE), every other register 0. -/
def OutRegs.reset : OutRegs where
  status := .idle
  result := 0
  hasReading := false
  valid := false
  sensorClass := 0
  subproto := 0
  familyId := 0
  temp := 0
  tempNeg := false
  hasTemp := false
  hum := 0
  hasHum := false
  battLow := false
  hasBatt := false
  channel := 0
  hasChannel := false
  rolling := 0
  sumCalc := 0
  sumTx := 0
  crcCalc := 0
  crcTx := 0
  crcPresent := false
  crcMatch := false

/-- The message buffer port as data: (position, character) pairs in the canonical form `Memory.wf` (Ops.lean). An unlisted
position holds `unlistedChar`. -/
abbrev Memory := List Host.Cell

/-- What a position of `MSG` holds that no pair lists: 0x00, as the host syntax leaves every later position (R85; DESIGN
CHOICE, log entry 4). -/
def unlistedChar : Byte := 0x00

/-- R21: the input ports, as the host drives them. The block reads them and never writes them (R66). -/
structure Ports where
  /-- `OP`, 4 bits. -/
  op : BitVec 4
  /-- `MSG[0..MSG_MAX-1]`. -/
  msg : Memory
  /-- `MSG_LEN`, 8 bits unsigned; it may exceed `MSG_MAX`. -/
  msgLen : Byte
  /-- `ARG_SUM`, 8 bits unsigned. -/
  argSum : Byte
  /-- `ARG_CRC`, 8 bits unsigned. -/
  argCrc : Byte
  /-- `RESET`, 1 bit. -/
  reset : Bool
  deriving DecidableEq, Repr

/-- Ports at rest: what the model's reset state shows on ports that the spec gives no value (DESIGN CHOICE, log entry 1). -/
def Ports.rest : Ports where
  op := 0
  msg := []
  msgLen := 0
  argSum := 0
  argCrc := 0
  reset := false

/-- The machine. -/
structure State where
  /-- The output register file (R27). -/
  regs : OutRegs
  /-- The input ports of the step that comes next (R21). -/
  ports : Ports
  /-- The instance's parameters (R22): no step changes them. -/
  cfg : Config
  deriving DecidableEq, Repr

/-- The state after reset or power-up (R34, R240, R241), of an instance with the default parameters (log entry 3) and with
its ports at rest (log entry 1). -/
def State.reset : State where
  regs := OutRegs.reset
  ports := Ports.rest
  cfg := Config.default

/-- Why the machine stops. The spec's errors are status codes, not stops (R210), so this is the model's own. -/
inductive Fault where
  /-- A read of `MSG[i]` with `i >= MSG_MAX`: R60 gives the buffer no such position. Raised by `Snapshot.char` (Operands.lean).
  Safe: R63 says no operation makes such a read, and under `Config.Legal` none does in the model (log entry 5). -/
  | noSuchPosition
  deriving DecidableEq, Repr

/-- Why the model gives no meaning. -/
inductive Refusal where
  /-- A command with no meaning in this model, by its mnemonic: raised by no arm of `exec`. Safe. -/
  | notModelled (mnemonic : String)
  /-- A host line that R85's syntax cannot spell: raised by `runLine` (HostProgram.lean), never by `step`. Safe (log
  entry 9). -/
  | hostLineIllFormed
  deriving DecidableEq, Repr

end Sys2Proof.Machine
end

