-- ==== Sys2Proof/Machine/Ops.lean ====
section
/-! DEFINITION. The named operations over the message buffer and the output registers, and the one shared operation of an
error: `fail(CODE)` (R13, R214). The CORE has no trap, vector, saved register or mode (R210, R218), so an error's whole effect is
the register file it leaves, and nothing returns from it (R216). -/

namespace Sys2Proof.Machine

/-! ### The message buffer (R60) -/

/-- The character at a position: an unlisted position holds `unlistedChar`. -/
def Memory.read : Memory → Nat → Byte
  | [], _ => unlistedChar
  | (k, b) :: m, a => if k = a then b else Memory.read m a

/-- Put a character at a position, keeping the canonical form. The block never writes `MSG` (R66): this is how the HOST drives
the port. -/
def Memory.write : Memory → Nat → Byte → Memory
  | [], a, b => if b = unlistedChar then [] else [(a, b)]
  | (k, c) :: m, a, b =>
    if a < k then (if b = unlistedChar then (k, c) :: m else (a, b) :: (k, c) :: m)
    else if a = k then (if b = unlistedChar then m else (a, b) :: m)
    else (k, c) :: Memory.write m a b

/-- Put a string at consecutive positions from `a` on. -/
def Memory.writeString : Memory → Nat → List Byte → Memory
  | m, _, [] => m
  | m, a, b :: bs => Memory.writeString (Memory.write m a b) (a + 1) bs

/-- The canonical form: positions strictly rising, and no pair that says what an unlisted position holds anyway. -/
abbrev Memory.wf (m : Memory) : Prop :=
  m.Pairwise (fun c d => c.1 < d.1) ∧ ∀ c ∈ m, c.2 ≠ unlistedChar

/-- Every listed position exists: R60 numbers them 0 to `MSG_MAX - 1`. -/
abbrev Memory.below (m : Memory) (n : Nat) : Prop := ∀ c ∈ m, c.1 < n

/-! ### The read port (R25, R27, R28) -/

/-- R25: the code `STATUS` holds, 3 bits. -/
def StatusCode.code : StatusCode → BitVec 3
  | .ok => 0
  | .noDecoder => 1
  | .invalidDigit => 2
  | .malformedLength => 3
  | .unknownSubprotocol => 4
  | .checksumMismatch => 5
  | .illegalOp => 6
  | .idle => 7

/-- R27, column "no.": the number of a register on the host read port. -/
def Reg.number : Reg → Byte
  | .status => 0x00
  | .result => 0x01
  | .hasReading => 0x02
  | .valid => 0x03
  | .sensorClass => 0x04
  | .subproto => 0x05
  | .familyId => 0x06
  | .temp => 0x07
  | .tempNeg => 0x08
  | .hasTemp => 0x09
  | .hum => 0x0A
  | .hasHum => 0x0B
  | .battLow => 0x0C
  | .hasBatt => 0x0D
  | .channel => 0x0E
  | .hasChannel => 0x0F
  | .rolling => 0x10
  | .sumCalc => 0x11
  | .sumTx => 0x12
  | .crcCalc => 0x13
  | .crcTx => 0x14
  | .crcPresent => 0x15
  | .crcMatch => 0x16

/-- All registers, in the order of R27. -/
def Reg.all : List Reg :=
  [.status, .result, .hasReading, .valid, .sensorClass, .subproto, .familyId, .temp, .tempNeg, 
   .hasTemp, .hum, .hasHum, .battLow, .hasBatt, .channel, .hasChannel, 
   .rolling, .sumCalc, .sumTx, .crcCalc, .crcTx, .crcPresent, .crcMatch]

/-- A register's value as the host reads it, whole (R68), zero-extended to the widest register's 16 bits (log entry 8). -/
def OutRegs.get (r : OutRegs) : Reg → Half
  | .status => r.status.code.setWidth 16
  | .result => r.result
  | .hasReading => (BitVec.ofBool r.hasReading).setWidth 16
  | .valid => (BitVec.ofBool r.valid).setWidth 16
  | .sensorClass => r.sensorClass.setWidth 16
  | .subproto => r.subproto.setWidth 16
  | .familyId => r.familyId
  | .temp => r.temp
  | .tempNeg => (BitVec.ofBool r.tempNeg).setWidth 16
  | .hasTemp => (BitVec.ofBool r.hasTemp).setWidth 16
  | .hum => r.hum
  | .hasHum => (BitVec.ofBool r.hasHum).setWidth 16
  | .battLow => (BitVec.ofBool r.battLow).setWidth 16
  | .hasBatt => (BitVec.ofBool r.hasBatt).setWidth 16
  | .channel => r.channel.setWidth 16
  | .hasChannel => (BitVec.ofBool r.hasChannel).setWidth 16
  | .rolling => r.rolling.setWidth 16
  | .sumCalc => r.sumCalc
  | .sumTx => r.sumTx.setWidth 16
  | .crcCalc => r.crcCalc.setWidth 16
  | .crcTx => r.crcTx.setWidth 16
  | .crcPresent => (BitVec.ofBool r.crcPresent).setWidth 16
  | .crcMatch => (BitVec.ofBool r.crcMatch).setWidth 16

/-- R28, R32: a host read by number. A number that is no register reads as 0. -/
def OutRegs.readPort (r : OutRegs) (n : Byte) : Half :=
  match Reg.all.find? (fun g => g.number == n) with
  | some g => r.get g
  | none => 0

/-! ### Writing the output registers -/

/-- R191: the clear on entry: 0 to every register except `STATUS`, which is written once, at the end. -/
def OutRegs.clear (r : OutRegs) : OutRegs := { OutRegs.reset with status := r.status }

/-- `STATUS <- code`. -/
def OutRegs.setStatus (r : OutRegs) (code : StatusCode) : OutRegs := { r with status := code }

/-- `RESULT <- v`. -/
def OutRegs.writeResult (r : OutRegs) (v : Half) : OutRegs := { r with result := v }

/-- R120: `HAS_READING <- 1; CLASS <- 1`. -/
def OutRegs.writeHeader (r : OutRegs) : OutRegs := { r with hasReading := true, sensorClass := 1 }

/-- R122: `FAMILY_ID <- id`. -/
def OutRegs.writeFamilyId (r : OutRegs) (id : Half) : OutRegs := { r with familyId := id }

/-- R123: `SUBPROTO <- v`. -/
def OutRegs.writeSubproto (r : OutRegs) (v : BitVec 2) : OutRegs := { r with subproto := v }

/-- R150, R195: the checksum diagnostics, `SUM_CALC <- computed; SUM_TX <- tx`. -/
def OutRegs.writeSums (r : OutRegs) (computed : Half) (tx : Byte) : OutRegs := { r with sumCalc := computed, sumTx := tx }

/-- R176, R195: the CRC diagnostics, `CRC_CALC <- computed; CRC_TX <- tx; CRC_PRESENT <- 1; CRC_MATCH <- (computed = tx)`. -/
def OutRegs.writeCrcs (r : OutRegs) (computed tx : Byte) : OutRegs :=
  { r with crcCalc := computed, crcTx := tx, crcPresent := true, crcMatch := computed == tx }

/-- R195: `ROLLING <- v`. -/
def OutRegs.writeRolling (r : OutRegs) (v : Byte) : OutRegs := { r with rolling := v }

/-- R198: the Reading fields every sub-protocol commits. -/
def OutRegs.commitCommon (r : OutRegs) (temp : Half) (neg battLow : Bool) (channel : Nibble) : OutRegs :=
  { r with
    valid := true
    temp := temp, tempNeg := neg, hasTemp := true
    battLow := battLow, hasBatt := true
    channel := channel, hasChannel := true }

/-- R198: `HUM <- v; HAS_HUM <- 1`. -/
def OutRegs.commitHum (r : OutRegs) (v : Half) : OutRegs := { r with hum := v, hasHum := true }

/-- The state with another register file: the only thing an operation changes (R66, R73). -/
def State.setRegs (s : State) (r : OutRegs) : State := { s with regs := r }

/-- The state with other input ports: what the host does between steps (R21). -/
def State.setPorts (s : State) (p : Ports) : State := { s with ports := p }

/-! ### Operations and their end (R190, R214) -/

/-- R71: the one snapshot an operation samples when it starts. -/
structure Snapshot where
  /-- The input ports. -/
  ports : Ports
  /-- The parameters. -/
  cfg : Config
  deriving DecidableEq, Repr

/-- The snapshot of a state. -/
def State.snapshot (s : State) : Snapshot where
  ports := s.ports
  cfg := s.cfg

/-- Why an operation ends before its last line. -/
inductive Halt where
  /-- `fail(CODE)` (R13), with the register file as written so far. -/
  | fail (code : StatusCode) (r : OutRegs)
  /-- The model stops (`Fault`). -/
  | fault (f : Fault)
  deriving DecidableEq, Repr

/-- A stage of an operation: it goes on with a value, or ends the operation (R190: no later stage then runs). -/
abbrev Stage (α : Type) := Except Halt α

/-- R13, R214: `fail(CODE)`. The operation ends at once and the register file is what was written so far, with
`STATUS = CODE` (`finish`). That this is R214's table follows from where the stages write; it is an obligation. -/
def failWith {α : Type} (code : StatusCode) (r : OutRegs) : Stage α := .error (.fail code r)

/-- R14: a codec call inside an operation: InvalidDigit ends the operation with `fail(INVALID_DIGIT)`. -/
def orInvalidDigit {α : Type} (r : OutRegs) : Option α → Stage α
  | some v => .ok v
  | none => failWith .invalidDigit r

/-- R191, R214, R246: the end of an operation: the whole register file is written at once, with `STATUS` = OK or the code. -/
def finish (s : State) : Stage OutRegs → Host.Outcome State Fault Refusal
  | .ok r => .next (s.setRegs (r.setStatus .ok))
  | .error (.fail code r) => .next (s.setRegs (r.setStatus code))
  | .error (.fault f) => .fault f

/-- R191, R246: an operation as one indivisible step: sample the snapshot, clear the registers, run, write the result. -/
def runOperation (op : Snapshot → OutRegs → Stage OutRegs) (s : State) : Host.Outcome State Fault Refusal :=
  finish s (op s.snapshot s.regs.clear)

/-! ### What a step performs (R80, R240) -/

/-- R80: the command the `OP` port selects, decoded once at the start of the operation. -/
def State.fetch (s : State) : Instr := decodeOp s.ports.op

/-- R240: `RESET` asserted: every output register to its reset value; no other input is read, the parameters stay. -/
def State.assertReset (s : State) : State := s.setRegs OutRegs.reset

/-- The host presents `OP = w` with `RESET` released, and leaves every other port alone. -/
def State.present (s : State) (w : Nat) : State :=
  s.setPorts { s.ports with op := BitVec.ofNat 4 w, reset := false }

end Sys2Proof.Machine
end

