-- ==== Sys2Proof/Machine/Operands.lean ====
section
/-! DEFINITION. Every operand form: reading characters of the snapshot (R62, R63, R82), the message map and the field mux table
(R61, R122, R124, R151) as one declarative table, and the primitives of R13 that make register values. -/

namespace Sys2Proof.Machine

/-! ### Characters of the snapshot -/

/-- `MSG_LEN`, unsigned (R82). -/
def Snapshot.len (x : Snapshot) : Nat := x.ports.msgLen.toNat

/-- `MSG[i]`. R60: only positions below `MSG_MAX` exist. -/
def Snapshot.char (x : Snapshot) (i : Nat) : Stage Byte :=
  if i < x.cfg.msgMax then .ok (x.ports.msg.read i) else .error (.fault .noSuchPosition)

/-- The string `[MSG[i0], MSG[i1], ...]`, in that order (R107). -/
def Snapshot.chars (x : Snapshot) : List Nat → Stage (List Byte)
  | [] => .ok []
  | i :: is => do
    let c ← x.char i
    let cs ← x.chars is
    .ok (c :: cs)

/-- The string `MSG[0..MSG_LEN-1]` (R82). -/
def Snapshot.message (x : Snapshot) : Stage (List Byte) := x.chars (List.range x.len)

/-- R61, R62: the body `pt` starts at offset 5, after the 4-character header and the sync character, which nothing reads. -/
def bodyOffset : Nat := 5

/-- R62: the string `[pt[i0], pt[i1], ...]`, with `pt[i] = MSG[5 + i]`. -/
def Snapshot.bodyChars (x : Snapshot) (is : List Nat) : Stage (List Byte) := x.chars (is.map (bodyOffset + ·))

/-! ### The header and the sub-protocols (R9, R120, R123, R124) -/

/-- R9, R11: the header "OSV2" in ASCII. -/
def header : List Byte := [0x4F, 0x53, 0x56, 0x32]

/-- R9: minimum message lengths: the dispatcher needs more than 4 characters, the decoder more than 11. -/
def headerLen : Nat := 4

/-- R9: see `headerLen`. -/
def decoderMinLen : Nat := 11

/-- R124: the 16-bit ID of a sub-protocol. -/
def familyIdOf : SubProtocol → Half
  | .tempOnly => 0xEC40
  | .tempHum => 0x1D20

/-- R124: the code of a sub-protocol in `SUBPROTO`. -/
def subprotoCode : SubProtocol → BitVec 2
  | .tempOnly => 1
  | .tempHum => 2

/-- R124: the body length `N`, in nibbles. -/
def bodyLenOf : SubProtocol → Nat
  | .tempOnly => 16
  | .tempHum => 20

/-- R123, R125: the selection: exactly two IDs are recognised. -/
def selectById (id : Half) : Option SubProtocol :=
  if id = familyIdOf .tempOnly then some .tempOnly
  else if id = familyIdOf .tempHum then some .tempHum
  else none

/-! ### The field mux table (R151): body positions in assembly order, the first the most significant digit -/

/-- R122: sub-protocol ID. -/
def subIdPositions : List Nat := [0, 3, 2, 5]

/-- R142: raw channel. -/
def channelPositions : List Nat := [4]

/-- R143: rolling code. -/
def rollingPositions : List Nat := [7, 6]

/-- R144: battery flag. -/
def batteryPositions : List Nat := [9]

/-- R145: temperature magnitude. -/
def magnitudePositions : List Nat := [10, 11, 8]

/-- R145: sign flag. -/
def signPositions : List Nat := [13]

/-- R146: humidity, without its constant third digit. -/
def humidityPositions : List Nat := [15, 12]

/-- R146: the constant third humidity digit '0'. -/
def humidityLastDigit : Byte := 0x30

/-- R147, R148: transmitted checksum. -/
def sumTxPositions : SubProtocol → List Nat
  | .tempOnly => [15, 12]
  | .tempHum => [16, 17]

/-- R147: transmitted CRC-8 (Temp+Humidity only). -/
def crcTxPositions : List Nat := [18, 19]

/-- R149: the positions the temp-only checksum sums. -/
def tempOnlySumPositions : List Nat := [0, 2, 3, 4, 5, 6, 7, 8, 9, 10, 11, 13]

/-- R174: the span the Validator runs over: the first 16 nibbles of `pt`. -/
def validatorSpan : List Nat := List.range 16

/-! ### Register values (R13) -/

/-- R13: `zext_16` of a natural number the rule shows to be in range (R10: nothing wraps silently; the ranges are obligations). -/
def zext16 (v : Nat) : Half := BitVec.ofNat 16 v

/-- R13: `twos_16`, for `-2^15 <= i < 2^15`. -/
def twos16 (i : Int) : Half := BitVec.ofInt 16 i

/-- R143, R147, R148: a 2-digit `hexValue` in its 8-bit register. -/
def byteOf (v : Nat) : Byte := BitVec.ofNat 8 v

end Sys2Proof.Machine
end

