-- ==== Sys2Proof/Machine/Flags.lean ====
section
/-! DEFINITION. Every flag computation of the spec: the two masked bits of the wire format (R144, R145) and the comparisons that
decide an operation's end (R149, R174, R175, R176, R196). -/

namespace Sys2Proof.Machine

/-- R144: the battery flag is bit 2 of its nibble (mask 0x04). -/
def batteryBit (d : Nibble) : Bool := d &&& 0x4 != 0

/-- R145: the sign flag is bit 3 of its nibble (mask 0x08). -/
def signBit (d : Nibble) : Bool := d &&& 0x8 != 0

/-- R145: the sign applied to the magnitude, after the conversion. -/
def signedTenths (neg : Bool) (mag : Nat) : Int := if neg then -(mag : Int) else mag

/-- R149, R174, R176: computed and transmitted checksum compared as 16-bit values, the transmitted one zero-extended. -/
def sumOk (computed : Nat) (tx : Byte) : Bool := zext16 computed == tx.setWidth 16

/-- R175: does the CRC let the operation pass? Only an enforced mismatch does not. -/
def crcAllows (enforced : Bool) (computed tx : Byte) : Bool := computed == tx || !enforced

end Sys2Proof.Machine
end

