-- ==== Sys2Proof/Machine/Codec.lean ====
section
/-! DEFINITION. The digit codec (spec 40_digit_codec.md): `digitValue`, `hexValue`, `bcdDecimal`, and the operations DIGIT, HEX
and BCD. `none` is InvalidDigit: a function either returns a value or raises, never a partial result (R102). -/

namespace Sys2Proof.Machine

/-- R100: '0'..'9' to 0..9 and 'A'..'F' to 10..15; any other character is InvalidDigit. -/
def digitValue (c : Byte) : Option Nibble :=
  if 0x30 ≤ c ∧ c ≤ 0x39 then some ((c - 0x30).setWidth 4)
  else if 0x41 ≤ c ∧ c ≤ 0x46 then some ((c - 0x37).setWidth 4)
  else none

/-- R104: a digit of a BCD string: a hex digit below 10. -/
def bcdDigit (c : Byte) : Option Nibble :=
  match digitValue c with
  | some d => if 10 ≤ d.toNat then none else some d
  | none => none

/-- The left fold of R102 and R104 in a given base, over the digits a digit function reads. -/
def foldDigits (digit : Byte → Option Nibble) (base : Nat) : List Byte → Nat → Option Nat
  | [], r => some r
  | c :: cs, r =>
    match digit c with
    | some d => foldDigits digit base cs (r * base + d.toNat)
    | none => none

/-- R102: the fixed-width nibble parser, most significant digit first. -/
def hexValue (s : List Byte) : Option Nat := foldDigits digitValue 16 s 0

/-- R104: the BCD-to-decimal converter, in tenths. -/
def bcdDecimal (s : List Byte) : Option Nat := foldDigits bcdDigit 10 s 0

/-- R103, R105: the widest string HEX and BCD take. -/
def codecMaxLen : Nat := 4

/-- R101. -/
def opDigit (x : Snapshot) (r : OutRegs) : Stage OutRegs := do
  let c ← x.char 0
  let v ← orInvalidDigit r (digitValue c)
  .ok (r.writeResult (zext16 v.toNat))

/-- R103 and R105 share their form: the length check, then the conversion of `MSG[0..MSG_LEN-1]`. -/
def opConvert (convert : List Byte → Option Nat) (x : Snapshot) (r : OutRegs) : Stage OutRegs :=
  if codecMaxLen < x.len then failWith .malformedLength r
  else do
    let s ← x.message
    let v ← orInvalidDigit r (convert s)
    .ok (r.writeResult (zext16 v))

/-- DIGIT (R101). -/
def execDigit (s : State) : Host.Outcome State Fault Refusal := runOperation opDigit s

/-- HEX (R103). -/
def execHex (s : State) : Host.Outcome State Fault Refusal := runOperation (opConvert hexValue) s

/-- BCD (R105). -/
def execBcd (s : State) : Host.Outcome State Fault Refusal := runOperation (opConvert bcdDecimal) s

end Sys2Proof.Machine
end

