-- ==== Sys2Proof/Machine/Selector.lean ====
section
/-! DEFINITION. The header comparator and protocol selector (spec 41_dispatch.md): the stages HEADER, MINLEN, SUBID and SELECT
that DECODE and IDENT share, and IDENT. -/

namespace Sys2Proof.Machine

/-- R120: stage HEADER. With `MSG_LEN <= 4` the header is not read. -/
def stageHeader (x : Snapshot) (r : OutRegs) : Stage OutRegs :=
  if x.len ≤ headerLen then failWith .noDecoder r
  else do
    let h ← x.chars [0, 1, 2, 3]
    if h = header then .ok r.writeHeader else failWith .noDecoder r

/-- R121: stage MINLEN. -/
def stageMinLen (x : Snapshot) (r : OutRegs) : Stage OutRegs :=
  if x.len ≤ decoderMinLen then failWith .malformedLength r else .ok r

/-- R122: stage SUBID. -/
def stageSubId (x : Snapshot) (r : OutRegs) : Stage OutRegs := do
  let s ← x.bodyChars subIdPositions
  let id ← orInvalidDigit r (hexValue s)
  .ok (r.writeFamilyId (zext16 id))

/-- R123: stage SELECT, on the ID that SUBID wrote. -/
def stageSelect (r : OutRegs) : Stage (SubProtocol × OutRegs) :=
  match selectById r.familyId with
  | some sp => .ok (sp, r.writeSubproto (subprotoCode sp))
  | none => failWith .unknownSubprotocol r

/-- R190: stages 1 to 4, in order. -/
def selectProtocol (x : Snapshot) (r : OutRegs) : Stage (SubProtocol × OutRegs) := do
  let r ← stageHeader x r
  let r ← stageMinLen x r
  let r ← stageSubId x r
  stageSelect r

/-- R126: IDENT runs the four stages alone and writes no Reading field. -/
def opIdent (x : Snapshot) (r : OutRegs) : Stage OutRegs := do
  let (_, r) ← selectProtocol x r
  .ok r

/-- IDENT (R126). -/
def execIdent (s : State) : Host.Outcome State Fault Refusal := runOperation opIdent s

end Sys2Proof.Machine
end

