-- ==== Sys2Proof/Machine/Extract.lean ====
section
/-! DEFINITION. The message field extractor (spec 42_field_extract.md), the FIELDS stage (R193, R194), the temp-only checksum
(R148, R149) and TSUM. -/

namespace Sys2Proof.Machine

/-- The exact sum of `digitValue` over a string (R149, R171: modulo nothing). -/
def digitSum : List Byte → Nat → Option Nat
  | [], s => some s
  | c :: cs, s =>
    match digitValue c with
    | some d => digitSum cs (s + d.toNat)
    | none => none

/-- `digitValue` of a one-character string. -/
def oneDigit : List Byte → Option Nibble
  | [c] => digitValue c
  | _ => none

/-- R142: `CHANNEL_MAP` at a raw channel code. -/
def mapChannel (cfg : Config) (raw : Nibble) : Nibble := cfg.channelMap[raw.toNat]

/-- The locals of the FIELDS stage that both sub-protocols have (R193, R194). -/
structure Fields where
  /-- `channel`. -/
  channel : Nibble
  /-- `rolling`. -/
  rolling : Byte
  /-- `batt_low`. -/
  battLow : Bool
  /-- `mag`, in tenths. -/
  mag : Nat
  /-- `neg`. -/
  neg : Bool
  /-- `sum_tx`. -/
  sumTx : Byte
  deriving DecidableEq, Repr

/-- R142. -/
def fieldChannel (x : Snapshot) (r : OutRegs) : Stage Nibble := do
  let raw ← orInvalidDigit r (oneDigit (← x.bodyChars channelPositions))
  .ok (mapChannel x.cfg raw)

/-- R143. -/
def fieldRolling (x : Snapshot) (r : OutRegs) : Stage Byte := do
  let v ← orInvalidDigit r (hexValue (← x.bodyChars rollingPositions))
  .ok (byteOf v)

/-- R144. -/
def fieldBattery (x : Snapshot) (r : OutRegs) : Stage Bool := do
  let d ← orInvalidDigit r (oneDigit (← x.bodyChars batteryPositions))
  .ok (batteryBit d)

/-- R145: the magnitude, in tenths. -/
def fieldMagnitude (x : Snapshot) (r : OutRegs) : Stage Nat := do
  orInvalidDigit r (bcdDecimal (← x.bodyChars magnitudePositions))

/-- R145: the sign flag. -/
def fieldSign (x : Snapshot) (r : OutRegs) : Stage Bool := do
  let d ← orInvalidDigit r (oneDigit (← x.bodyChars signPositions))
  .ok (signBit d)

/-- R146: humidity in tenths: two digits from the wire and the constant '0'. -/
def fieldHumidity (x : Snapshot) (r : OutRegs) : Stage Nat := do
  let ds ← x.bodyChars humidityPositions
  orInvalidDigit r (bcdDecimal (ds ++ [humidityLastDigit]))

/-- R147, R148: the transmitted checksum. -/
def fieldSumTx (sp : SubProtocol) (x : Snapshot) (r : OutRegs) : Stage Byte := do
  let v ← orInvalidDigit r (hexValue (← x.bodyChars (sumTxPositions sp)))
  .ok (byteOf v)

/-- R147: the transmitted CRC. -/
def fieldCrcTx (x : Snapshot) (r : OutRegs) : Stage Byte := do
  let v ← orInvalidDigit r (hexValue (← x.bodyChars crcTxPositions))
  .ok (byteOf v)

/-- R193: stage FIELDS of sub-protocol 0xEC40, in the order of R152. -/
def fieldsTempOnly (x : Snapshot) (r : OutRegs) : Stage Fields := do
  let channel ← fieldChannel x r
  let rolling ← fieldRolling x r
  let battLow ← fieldBattery x r
  let mag ← fieldMagnitude x r
  let neg ← fieldSign x r
  let sumTx ← fieldSumTx .tempOnly x r
  .ok ⟨channel, rolling, battLow, mag, neg, sumTx⟩

/-- R194: stage FIELDS of sub-protocol 0x1D20, in the order of R152: also humidity and the transmitted CRC. -/
def fieldsTempHum (x : Snapshot) (r : OutRegs) : Stage (Fields × Nat × Byte) := do
  let channel ← fieldChannel x r
  let rolling ← fieldRolling x r
  let battLow ← fieldBattery x r
  let mag ← fieldMagnitude x r
  let neg ← fieldSign x r
  let hum ← fieldHumidity x r
  let sumTx ← fieldSumTx .tempHum x r
  let crcTx ← fieldCrcTx x r
  .ok (⟨channel, rolling, battLow, mag, neg, sumTx⟩, hum, crcTx)

/-- R149: the computed temp-only checksum of a body whose position `i` is `MSG[base + i]`. -/
def tempOnlySum (base : Nat) (x : Snapshot) (r : OutRegs) : Stage Nat := do
  let s ← x.chars (tempOnlySumPositions.map (base + ·))
  orInvalidDigit r (digitSum s 0)

/-- R150: the one length TSUM takes. -/
def tsumLen : Nat := 16

/-- R150: for this operation `pt[i]` denotes `MSG[i]`. -/
def opTsum (x : Snapshot) (r : OutRegs) : Stage OutRegs :=
  if x.len ≠ tsumLen then failWith .malformedLength r
  else do
    let tx ← orInvalidDigit r (hexValue (← x.chars (sumTxPositions .tempOnly)))
    let s ← tempOnlySum 0 x r
    let r := r.writeSums (zext16 s) (byteOf tx)
    if sumOk s (byteOf tx) then .ok r else failWith .checksumMismatch r

/-- TSUM (R150). -/
def execTsum (s : State) : Host.Outcome State Fault Refusal := runOperation opTsum s

end Sys2Proof.Machine
end

