-- ==== Sys2Proof/Machine/Validator.lean ====
section
/-! DEFINITION. The CRC-8 validator (spec 43_validator.md): the working copy, the checksum, the CRC walk, and VALIDATE. -/

namespace Sys2Proof.Machine

/-- R170: the working copy: characters exchanged in pairs (0,1), (2,3), ... Characters move; none is converted here, so an unread
one is never rejected. A span of odd length never comes here (R176). -/
def swapPairs : List Byte → List Byte
  | a :: b :: rest => b :: a :: swapPairs rest
  | l => l

/-- R171: the checksum: the sum over working indices 1 to `len - 1`. -/
def vsum (w : List Byte) : Option Nat := digitSum (w.drop 1) 0

/-- R9, R173: the CRC's initial value. -/
def crcInit : Byte := 0x43

/-- R9, R172: the constant 0x07 of a round. -/
def crcPoly : Byte := 0x07

/-- R172: one CRC round. -/
def crcRound (c : Byte) : Byte := if c.getLsbD 7 then (c <<< 1) ^^^ crcPoly else c <<< 1

/-- R172: four rounds. -/
def crcRound4 (c : Byte) : Byte := crcRound (crcRound (crcRound (crcRound c)))

/-- R173: one step of the walk: XOR the digit, then four rounds unless the index is 6 or 7 (the rolling code). -/
def crcStep (j : Nat) (crc : Byte) (d : Nibble) : Byte :=
  let c := crc ^^^ d.setWidth 8
  if j = 6 ∨ j = 7 then c else crcRound4 c

/-- R173: the walk over the characters from working index `j` on. -/
def crcWalk : Nat → Byte → List Byte → Option Byte
  | _, crc, [] => some crc
  | j, crc, c :: cs =>
    match digitValue c with
    | some d => crcWalk (j + 1) (crcStep j crc d) cs
    | none => none

/-- R173: the CRC-8 of a working copy: the walk from index 1, then four more rounds if `len` is even. -/
def vcrc (w : List Byte) : Option Byte :=
  match crcWalk 1 crcInit (w.drop 1) with
  | some crc => some (if w.length % 2 = 0 then crcRound4 crc else crc)
  | none => none

/-- R170, R171, R173: the Validator over a span: its checksum and its CRC. -/
def validateSpan (span : List Byte) (r : OutRegs) : Stage (Nat × Byte) := do
  let w := swapPairs span
  let sumCalc ← orInvalidDigit r (vsum w)
  let crcCalc ← orInvalidDigit r (vcrc w)
  .ok (sumCalc, crcCalc)

/-- R176. -/
def opValidate (x : Snapshot) (r : OutRegs) : Stage OutRegs :=
  if x.cfg.msgMax < x.len ∨ x.len % 2 = 1 then failWith .malformedLength r
  else do
    let span ← x.message
    let (sumCalc, crcCalc) ← validateSpan span r
    let r := (r.writeSums (zext16 sumCalc) x.ports.argSum).writeCrcs crcCalc x.ports.argCrc
    if sumOk sumCalc x.ports.argSum && crcAllows x.cfg.crcEnforced crcCalc x.ports.argCrc then .ok r
    else failWith .checksumMismatch r

/-- VALIDATE (R176). -/
def execValidate (s : State) : Host.Outcome State Fault Refusal := runOperation opValidate s

end Sys2Proof.Machine
end

