-- ==== Sys2Proof/Machine/Pipeline.lean ====
section
/-! DEFINITION. DECODE, the full pipeline (spec 44_decode.md): the stages BODYLEN, FIELDS, CHECK and COMMIT after the selector's
four, in the fixed order of R190. -/

namespace Sys2Proof.Machine

/-- R141: stage BODYLEN. It runs after MINLEN, so `MSG_LEN - 5` is a natural number. -/
def stageBodyLen (sp : SubProtocol) (x : Snapshot) (r : OutRegs) : Stage Unit :=
  if x.len - bodyOffset ≠ bodyLenOf sp then failWith .malformedLength r else .ok ()

/-- R195: the diagnostics every sub-protocol writes before `pass` is tested. -/
def writeDiagnostics (r : OutRegs) (f : Fields) (sumCalc : Nat) : OutRegs :=
  (r.writeRolling f.rolling).writeSums (zext16 sumCalc) f.sumTx

/-- R198: COMMIT of the fields both sub-protocols have. -/
def commitFields (r : OutRegs) (f : Fields) : OutRegs :=
  r.commitCommon (twos16 (signedTenths f.neg f.mag)) f.neg f.battLow f.channel

/-- R193, R196, R195, R198: FIELDS, CHECK and COMMIT of sub-protocol 0xEC40. The CRC plays no part and humidity stays absent. -/
def decodeTempOnly (x : Snapshot) (r : OutRegs) : Stage OutRegs := do
  let f ← fieldsTempOnly x r
  let sumCalc ← tempOnlySum bodyOffset x r
  let r := writeDiagnostics r f sumCalc
  if sumOk sumCalc f.sumTx then .ok (commitFields r f) else failWith .checksumMismatch r

/-- R194, R174, R195, R198: FIELDS, CHECK and COMMIT of sub-protocol 0x1D20. -/
def decodeTempHum (x : Snapshot) (r : OutRegs) : Stage OutRegs := do
  let (f, hum, crcTx) ← fieldsTempHum x r
  let (sumCalc, crcCalc) ← validateSpan (← x.bodyChars validatorSpan) r
  let r := (writeDiagnostics r f sumCalc).writeCrcs crcCalc crcTx
  if sumOk sumCalc f.sumTx && crcAllows x.cfg.crcEnforced crcCalc crcTx then
    .ok ((commitFields r f).commitHum (zext16 hum))
  else failWith .checksumMismatch r

/-- R192. -/
def opDecode (x : Snapshot) (r : OutRegs) : Stage OutRegs := do
  let (sp, r) ← selectProtocol x r
  stageBodyLen sp x r
  match sp with
  | .tempOnly => decodeTempOnly x r
  | .tempHum => decodeTempHum x r

/-- DECODE (R192). -/
def execDecode (s : State) : Host.Outcome State Fault Refusal := runOperation opDecode s

end Sys2Proof.Machine
end

