-- ==== Sys2Proof/Machine/Reserved.lean ====
section
/-! DEFINITION. The reserved encodings (R83): their effect is `fail(ILLEGAL_OP)`, with no input read. -/

namespace Sys2Proof.Machine

/-- R83: every output register cleared and `STATUS <- 6`. -/
def opReserved (_ : Snapshot) (r : OutRegs) : Stage OutRegs := failWith .illegalOp r

/-- `OP = 0x7` (R83). -/
def execReserved7 (s : State) : Host.Outcome State Fault Refusal := runOperation opReserved s

/-- `OP = 0x8..0xF` (R83): `OP[2:0]` plays no part. -/
def execReservedHigh (_x : BitVec 3) (s : State) : Host.Outcome State Fault Refusal := runOperation opReserved s

end Sys2Proof.Machine
end

