-- ==== Sys2Proof/Machine/Dispatch.lean ====
section
/-! DEFINITION. What each command does: one arm per constructor of Instr, one meaning per arm. -/

namespace Sys2Proof.Machine

def exec (i : Instr) (s : State) : Host.Outcome State Fault Refusal :=
  match i with
  | .decode => Sys2Proof.Machine.execDecode s
  | .digit => Sys2Proof.Machine.execDigit s
  | .hex => Sys2Proof.Machine.execHex s
  | .bcd => Sys2Proof.Machine.execBcd s
  | .ident => Sys2Proof.Machine.execIdent s
  | .validate => Sys2Proof.Machine.execValidate s
  | .tsum => Sys2Proof.Machine.execTsum s
  | .reserved7 => Sys2Proof.Machine.execReserved7 s
  | .reservedHigh x => Sys2Proof.Machine.execReservedHigh x s

end Sys2Proof.Machine
end

