-- ==== Sys2Proof/Machine/Step.lean ====
section
/-! DEFINITION. One step: the host action its ports spell (R20, R21, R246): a reset if `RESET` is asserted (R240), otherwise the
operation `OP` selects. -/

namespace Sys2Proof.Machine

/-- One step (log entries 1, 6 and 10). -/
def step (s : State) : Host.Outcome State Fault Refusal :=
  if s.ports.reset then .next s.assertReset else exec s.fetch s

/-- The state whose very next step runs the command `w`: it stands on the `OP` port, with `RESET` released. -/
def State.withFetchWord (s : State) (_nbits w : Nat) : State := s.present w

end Sys2Proof.Machine
end

