-- ==== Sys2Proof/Machine/HostProgram.lean ====
section
/-! DEFINITION. Host programs (R85, R86, R249) and the host read port (R28): the abstract syntax of a line, what it does to the
ports, and what a program observes. Step.lean does not depend on this file. -/

namespace Sys2Proof.Machine

/-- One line of a host program (R85, R86). `MNEMONIC "string" ...` is `OP n "string" ...` with the mnemonic's code (R86). -/
inductive HostLine where
  /-- `OP n "string" [, len=N] [, sum=S] [, crc=C]`. -/
  | command (op : BitVec 4) (string : List Byte) (len sum crc : Option Byte)
  /-- `READ REG`, by register number (R28); a register name stands for its number (R27). -/
  | read (number : Byte)
  /-- `RESET`. -/
  | reset
  deriving DecidableEq, Repr

/-- R86: the line a mnemonic spells, with its code from R81. -/
def mnemonicLine (i : Instr) (string : List Byte) (len sum crc : Option Byte) : HostLine :=
  .command (encode i) string len sum crc

/-- R85: the line `READ REG` with a register name, by the number of R27. -/
def registerLine (g : Reg) : HostLine := .read g.number

/-- The character `"`, which R85's strings cannot hold. -/
def quoteChar : Byte := 0x22

/-- R85: can the syntax spell this line? A string holds no `"`, and when `len=` is absent the string's length must be a value of
the 8-bit `MSG_LEN` (log entry 9). -/
def HostLine.wf : HostLine → Bool
  | .command _ string len _ _ => !string.contains quoteChar && (len.isSome || decide (string.length < 256))
  | .read _ => true
  | .reset => true

/-- R85: the ports a command line sets. Characters beyond `MSG_MAX` have no position to stand at (log entry 9); every later
position holds 0x00. -/
def linePorts (cfg : Config) (op : BitVec 4) (string : List Byte) (len sum crc : Option Byte) : Ports where
  op := op
  msg := Memory.writeString [] 0 (string.take cfg.msgMax)
  msgLen := len.getD (BitVec.ofNat 8 string.length)
  argSum := sum.getD 0
  argCrc := crc.getD 0
  reset := false

/-- What a line does, and the value it returns if it is a `READ`. A read has no side effect (R28). -/
def runLine (s : State) (l : HostLine) : Host.Outcome (State × Option Half) Fault Refusal :=
  if l.wf then
    match l with
    | .read n => .next (s, some (s.regs.readPort n))
    | .reset => observe (step (s.setPorts { s.ports with reset := true }))
    | .command op string len sum crc => observe (step (s.setPorts (linePorts s.cfg op string len sum crc)))
  else .refused .hostLineIllFormed
where
  /-- A step's outcome as a line's: no value returned. -/
  observe : Host.Outcome State Fault Refusal → Host.Outcome (State × Option Half) Fault Refusal
    | .next t => .next (t, none)
    | .fault f => .fault f
    | .refused r => .refused r

/-- R249: a host program's observable result: the values its `READ` lines returned, in order, and the state after its last
line. -/
def runProgram (s : State) : List HostLine → Host.Outcome (State × List Half) Fault Refusal
  | [] => .next (s, [])
  | l :: ls =>
    match runLine s l with
    | .next (t, v) =>
      match runProgram t ls with
      | .next (u, vs) => .next (u, v.toList ++ vs)
      | .fault f => .fault f
      | .refused r => .refused r
    | .fault f => .fault f
    | .refused r => .refused r

end Sys2Proof.Machine
end

