-- ==== Sys2Proof/Safety.lean ====
section
/-! DEFINITION. The terms the claims use: what the characters on the ports say, what every state of a run keeps (R27, R29, R30),
which positions a command may read (R63 to R65), and what a safe run is. No meaning depends on this file. -/

namespace Sys2Proof.Machine

/-! ### What stands on the ports -/

/-- The character at a position of `MSG`. -/
def State.msgChar (s : State) (i : Nat) : Byte := s.ports.msg.read i

/-- The digit at a position of `MSG`; `none` if the character is not in the alphabet of R100. -/
def State.msgDigit (s : State) (i : Nat) : Option Nibble := digitValue (s.msgChar i)

/-- The digit at a position of the body, `pt[i] = MSG[5 + i]` (R62). -/
def State.bodyDigit (s : State) (i : Nat) : Option Nibble := s.msgDigit (5 + i)

/-- `MSG_LEN`, unsigned. -/
def State.msgLength (s : State) : Nat := s.ports.msgLen.toNat

/-- R120: `MSG[0..3]` is "OSV2". -/
abbrev State.HeaderMatches (s : State) : Prop :=
  s.msgChar 0 = 0x4F ∧ s.msgChar 1 = 0x53 ∧ s.msgChar 2 = 0x56 ∧ s.msgChar 3 = 0x32

/-- Other characters on the `MSG` port, all else alike. -/
def State.withMsg (s : State) (m : Memory) : State := s.setPorts { s.ports with msg := m }

/-- Other transmitted operands on `ARG_SUM` and `ARG_CRC`, all else alike. -/
def State.withArgs (s : State) (sum crc : Byte) : State := s.setPorts { s.ports with argSum := sum, argCrc := crc }

/-- Another length on the `MSG_LEN` port, all else alike. -/
def State.withLen (s : State) (n : Byte) : State := s.setPorts { s.ports with msgLen := n }

/-! ### Checksums over digits, as the rules write them -/

/-- R149: the sum of the temp-only checksum, over the digits of a body. -/
def tempOnlyDigitSum (d : Nat → Nibble) : Nat :=
  (d 0).toNat + (d 2).toNat + (d 3).toNat + (d 4).toNat + (d 5).toNat + (d 6).toNat + (d 7).toNat + (d 8).toNat
    + (d 9).toNat + (d 10).toNat + (d 11).toNat + (d 13).toNat

/-- R171: the Validator's sum over a span of `n` digits: every position but 1. -/
def spanDigitSum (n : Nat) (d : Nat → Nibble) : Nat :=
  (((List.range n).filter (· ≠ 1)).map fun i => (d i).toNat).sum

/-- R173: the CRC over a span of `n` digits, `n` even, as the loop of the rule writes it: `w[j] = span[j XOR 1]`. -/
def spanDigitCrc (n : Nat) (d : Nat → Nibble) : Byte :=
  crcRound4 <| (List.range' 1 (n - 1)).foldl
    (fun crc j =>
      if j = 6 ∨ j = 7 then crc ^^^ (d (j ^^^ 1)).setWidth 8 else crcRound4 (crc ^^^ (d (j ^^^ 1)).setWidth 8))
    0x43

/-- R177: the CRC over 16 digits in original positions: 0, 3, 2, 5, 4, 7, 6, 9, 8, 11, 10, 13, 12, 15, 14, with no rounds after
positions 7 and 6, and four final rounds. -/
def bodyOrderCrc (d : Nat → Nibble) : Byte :=
  let withRounds (crc : Byte) (i : Nat) : Byte := crcRound4 (crc ^^^ (d i).setWidth 8)
  let start := [0, 3, 2, 5, 4].foldl withRounds 0x43
  let rolled := start ^^^ (d 7).setWidth 8 ^^^ (d 6).setWidth 8
  crcRound4 ([9, 8, 11, 10, 13, 12, 15, 14].foldl withRounds rolled)

/-! ### What every state of a run keeps -/

/-- R29: with `VALID = 0` the Reading fields are all 0. -/
abbrev OutRegs.FieldsZero (r : OutRegs) : Prop :=
  r.temp = 0 ∧ r.tempNeg = false ∧ r.hasTemp = false ∧ r.hum = 0 ∧ r.hasHum = false ∧ r.battLow = false
    ∧ r.hasBatt = false ∧ r.channel = 0 ∧ r.hasChannel = false

/-- R195: no diagnostics. -/
abbrev OutRegs.DiagnosticsZero (r : OutRegs) : Prop :=
  r.rolling = 0 ∧ r.sumCalc = 0 ∧ r.sumTx = 0 ∧ r.crcCalc = 0 ∧ r.crcTx = 0 ∧ r.crcPresent = false ∧ r.crcMatch = false

/-- R30, its six invariants in order. -/
abbrev OutRegs.Consistent (r : OutRegs) : Prop :=
  (r.valid = true → r.status = .ok ∧ r.hasReading = true ∧ r.sensorClass = 1 ∧ (r.subproto = 1 ∨ r.subproto = 2)
      ∧ r.hasTemp = true ∧ r.hasBatt = true ∧ r.hasChannel = true)
    ∧ (r.hasHum = true ↔ r.valid = true ∧ r.subproto = 2)
    ∧ ((r.subproto = 1 → r.familyId = 0xEC40) ∧ (r.subproto = 2 → r.familyId = 0x1D20))
    ∧ (r.crcMatch = true → r.crcPresent = true)
    ∧ (r.hasReading = false → r.valid = false ∧ r.sensorClass = 0 ∧ r.subproto = 0 ∧ r.familyId = 0)
    ∧ (r.tempNeg = true → r.valid = true)

/-- R27: the largest even number not above `MSG_MAX` and 255. -/
def Config.largestEvenLen (cfg : Config) : Nat := min cfg.msgMax 255 / 2 * 2

/-- R27, column "legal values", for the registers it bounds below their width. R27 gives `CHANNEL` the range of `CHANNEL_MAP`, which
need not hold the 0 that the clear and reset write (R23, R29, R34): the model reads that entry as binding when `HAS_CHANNEL = 1`,
and `CHANNEL` as 0 otherwise (DEDUCED, log entry 18). -/
abbrev OutRegs.InRange (cfg : Config) (r : OutRegs) : Prop :=
  (r.sensorClass = 0 ∨ r.sensorClass = 1)
    ∧ (r.subproto = 0 ∨ r.subproto = 1 ∨ r.subproto = 2)
    ∧ (-999 ≤ r.temp.toInt ∧ r.temp.toInt ≤ 999)
    ∧ (r.hum.toNat ≤ 990 ∧ r.hum.toNat % 10 = 0)
    ∧ (r.hasChannel = true → r.channel ∈ cfg.channelMap.toList) ∧ (r.hasChannel = false → r.channel = 0)
    ∧ r.sumCalc.toNat ≤ 15 * (Config.largestEvenLen cfg - 1)

/-- The ports hold what ports can hold: `MSG` in canonical form, at positions that exist (R60). -/
abbrev State.PortsOk (s : State) : Prop := s.ports.msg.wf ∧ s.ports.msg.below s.cfg.msgMax

/-- What every state of a run keeps: legal parameters (R8), ports that hold what ports can hold, and the register file of R27, R29
and R30. -/
abbrev State.Inv (s : State) : Prop :=
  s.cfg.Legal ∧ s.PortsOk ∧ s.regs.Consistent ∧ s.regs.InRange s.cfg ∧ (s.regs.valid = false → s.regs.FieldsZero)

/-! ### What a command may read (R63, R64, R65) -/

/-- R63, rows "header" and "ID": the positions the selector reads when `MSG_LEN = n`. -/
def SelectorReads (n p : Nat) : Prop := (4 < n ∧ p < 4) ∨ (11 < n ∧ p ∈ [5, 8, 7, 10])

/-- R63 with R65: the positions of `MSG` a command reads when `MSG_LEN = n`, past the guard that R63 puts on each: none at a
length the command refuses before reading. DIGIT reads position 0 even when `MSG_LEN = 0` (R101, log entry 7). -/
def MayRead (msgMax n : Nat) : Instr → Nat → Prop
  | .decode, p =>
    SelectorReads n p ∨ (n = 21 ∧ 5 ≤ p ∧ p < 21 ∧ p ≠ 6 ∧ p ≠ 19) ∨ (n = 25 ∧ 5 ≤ p ∧ p < 25 ∧ p ≠ 6)
  | .digit, p => p = 0
  | .hex, p => n ≤ 4 ∧ p < n
  | .bcd, p => n ≤ 4 ∧ p < n
  | .ident, p => SelectorReads n p
  | .validate, p => n ≤ msgMax ∧ n % 2 = 0 ∧ p < n ∧ p ≠ 1
  | .tsum, p => n = 16 ∧ p < 16 ∧ p ≠ 1 ∧ p ≠ 14
  | .reserved7, _ => False
  | .reservedHigh _, _ => False

/-! ### Safe runs -/

/-- A run is safe if it never stops: every number of steps answers a next state, and the invariant holds there. -/
def State.RunsSafely (s : State) : Prop :=
  ∀ n, ∃ t, Host.Core.run Sys2Proof.core n s = .next t ∧ t.Inv

end Sys2Proof.Machine
end

