-- ==== Sys2Proof/Certificates/Slice0/Obligations.lean ====
section
/-! DEFINITION. The statements for the provers, from the spec's numbered rules. Where a statement needs the parameters to be
legal it says so: `Config.Legal` is R8's own constraint, and every statement holds for every legal value. -/

open Sys2Proof Sys2Proof.Machine

/-! ### Encoding -/

/-- R81, R83: each of the 16 `OP` values, written out bit by bit from the opcode map, selects the command the map gives it. -/
def Obligations.OpcodeMapSelectsEveryCommand : Prop :=
  decodeOp 0b0000 = .decode ∧ decodeOp 0b0001 = .digit ∧ decodeOp 0b0010 = .hex ∧ decodeOp 0b0011 = .bcd
    ∧ decodeOp 0b0100 = .ident ∧ decodeOp 0b0101 = .validate ∧ decodeOp 0b0110 = .tsum
    ∧ decodeOp 0b0111 = .reserved7 ∧ decodeOp 0b1000 = .reservedHigh 0b000 ∧ decodeOp 0b1001 = .reservedHigh 0b001
    ∧ decodeOp 0b1010 = .reservedHigh 0b010 ∧ decodeOp 0b1011 = .reservedHigh 0b011
    ∧ decodeOp 0b1100 = .reservedHigh 0b100 ∧ decodeOp 0b1101 = .reservedHigh 0b101
    ∧ decodeOp 0b1110 = .reservedHigh 0b110 ∧ decodeOp 0b1111 = .reservedHigh 0b111

/-- R80, R81, R84: the encoder and the decoder are inverse to each other, in both directions, and a number is a command exactly
when it is a 4-bit value; then it decodes to the command whose `OP` value it is. (That a wider number is refused, rather than cut
to four bits, is the model's choice: log entry 12.) -/
def Obligations.DecodeAndEncodeAgree : Prop :=
  (∀ i, i.wf = true ∧ decodeOp (encode i) = i) ∧ (∀ op, encode (decodeOp op) = op)
    ∧ ∀ n w i, decodeTableWord n w = some i ↔ w = (encode i).toNat

/-! ### Steps, reset, the read port and host lines -/

/-- R20, R80: with `RESET` released a step performs the command the `OP` port decodes to, and after `withFetchWord` that is the
placed word. (That a step is the host action the ports spell is the model's reading: log entry 1. So is all that the second
clause says of `withFetchWord`, that it puts the word on `OP`, releases `RESET` and leaves the other ports alone: log entry 10.) -/
def Obligations.StepPerformsThePresentedCommand : Prop :=
  (∀ (s : State) i, s.ports.reset = false → decodeTableWord 8 s.ports.op.toNat = some i → step s = exec i s)
    ∧ ∀ (s : State) w i, decodeTableWord 8 w = some i →
        step (s.withFetchWord 8 w) = exec i (s.withFetchWord 8 w)
          ∧ (s.withFetchWord 8 w).regs = s.regs ∧ (s.withFetchWord 8 w).cfg = s.cfg
          ∧ (s.withFetchWord 8 w).ports = { s.ports with op := encode i, reset := false }

/-- R240, R21: with `RESET` asserted a step performs no operation: `STATUS` then holds IDLE and every other register 0, and the
parameters and ports are as before, whatever stood on the other ports. (That `RESET` wins over whatever stands on `OP`, and stays
as the host drives it, is the model's reading: log entry 6.) -/
def Obligations.ResetRestoresEveryRegister : Prop :=
  ∀ s : State, s.ports.reset = true →
    ∃ t, step s = .next t ∧ t.regs.status = .idle ∧ (∀ g : Reg, g ≠ .status → t.regs.get g = 0)
      ∧ t.ports = s.ports ∧ t.cfg = s.cfg

/-- R34, R241, R28: power-up: the reset state's register file is what asserting `RESET` leaves from any state: `STATUS = 7`, every
other register 0, and every number that is no register reads as 0. (That the step leaves every port, `RESET` included, as the
host drives it is the model's reading: log entry 6. That a read is 16 bits wide is log entry 8.) -/
def Obligations.PowerUpIsTheResetState : Prop :=
  (∀ n : Byte, State.reset.regs.readPort n = if n = 0x00 then 7 else 0)
    ∧ ∀ s : State, s.ports.reset = true → step s = .next { s with regs := State.reset.regs }

/-- R27, R28: the host reads each register by its number, a read changes nothing, and a number from 0x17 to 0xFF reads as 0.
(That a read is 16 bits wide is the model's reading: log entry 8.) -/
def Obligations.ReadPortShowsEachRegister : Prop :=
  ∀ s : State,
    (∀ n : Byte, runLine s (.read n) = .next (s, some (s.regs.readPort n)))
      ∧ (∀ n : Byte, 0x17 ≤ n.toNat → s.regs.readPort n = 0)
      ∧ (s.regs.readPort 0x00).toNat = s.regs.status.code.toNat
      ∧ s.regs.readPort 0x01 = s.regs.result
      ∧ (s.regs.readPort 0x02).toNat = s.regs.hasReading.toNat
      ∧ (s.regs.readPort 0x03).toNat = s.regs.valid.toNat
      ∧ (s.regs.readPort 0x04).toNat = s.regs.sensorClass.toNat
      ∧ (s.regs.readPort 0x05).toNat = s.regs.subproto.toNat
      ∧ s.regs.readPort 0x06 = s.regs.familyId
      ∧ s.regs.readPort 0x07 = s.regs.temp
      ∧ (s.regs.readPort 0x08).toNat = s.regs.tempNeg.toNat
      ∧ (s.regs.readPort 0x09).toNat = s.regs.hasTemp.toNat
      ∧ s.regs.readPort 0x0A = s.regs.hum
      ∧ (s.regs.readPort 0x0B).toNat = s.regs.hasHum.toNat
      ∧ (s.regs.readPort 0x0C).toNat = s.regs.battLow.toNat
      ∧ (s.regs.readPort 0x0D).toNat = s.regs.hasBatt.toNat
      ∧ (s.regs.readPort 0x0E).toNat = s.regs.channel.toNat
      ∧ (s.regs.readPort 0x0F).toNat = s.regs.hasChannel.toNat
      ∧ (s.regs.readPort 0x10).toNat = s.regs.rolling.toNat
      ∧ s.regs.readPort 0x11 = s.regs.sumCalc
      ∧ (s.regs.readPort 0x12).toNat = s.regs.sumTx.toNat
      ∧ (s.regs.readPort 0x13).toNat = s.regs.crcCalc.toNat
      ∧ (s.regs.readPort 0x14).toNat = s.regs.crcTx.toNat
      ∧ (s.regs.readPort 0x15).toNat = s.regs.crcPresent.toNat
      ∧ (s.regs.readPort 0x16).toNat = s.regs.crcMatch.toNat

/-- R25: the eight status codes are 0 to 7 as the table numbers them. -/
def Obligations.StatusCodesAreNumberedAsListed : Prop :=
  (StatusCode.ok.code = 0 ∧ StatusCode.noDecoder.code = 1 ∧ StatusCode.invalidDigit.code = 2
      ∧ StatusCode.malformedLength.code = 3 ∧ StatusCode.unknownSubprotocol.code = 4
      ∧ StatusCode.checksumMismatch.code = 5 ∧ StatusCode.illegalOp.code = 6 ∧ StatusCode.idle.code = 7)
    ∧ ∀ c : BitVec 3, ∃ k : StatusCode, k.code = c

/-- R85: what a line does. A command line puts on the ports, before its operation is performed, the string's characters from
position 0 on and 0x00 at every later position, `MSG_LEN` the string's length or `len=`, the operands 0 when absent, `OP` the
code. A `RESET` line ends where the step with `RESET` asserted and every other port untouched ends, with `STATUS` IDLE and every
other register 0 (R240), and returns no value. (That characters past `MSG_MAX` are dropped, and that a line without `len=` is
spelt only for lengths `MSG_LEN` can hold, is the model's reading: log entry 9. So is that a command line releases `RESET`, and
that a `RESET` line leaves it asserted: log entry 14.) -/
def Obligations.CommandLineDrivesThePorts : Prop :=
  (∀ s : State, ∃ t, step (s.setPorts { s.ports with reset := true }) = .next t ∧ runLine s .reset = .next (t, none)
      ∧ t.regs.status = .idle ∧ (∀ g : Reg, g ≠ .status → t.regs.get g = 0)
      ∧ t.ports = { s.ports with reset := true } ∧ t.cfg = s.cfg)
  ∧ ∀ (s : State) op string len sum crc, (HostLine.command op string len sum crc).wf = true →
    ∃ p : Ports,
      (∀ t, step (s.setPorts p) = .next t → runLine s (.command op string len sum crc) = .next (t, none))
        ∧ p.op = op ∧ p.reset = false
        ∧ (∀ i, p.msg.read i = if i < s.cfg.msgMax then string.getD i 0x00 else 0x00)
        ∧ p.msg.wf ∧ p.msg.below s.cfg.msgMax
        ∧ p.msgLen.toNat = (match len with | some n => n.toNat | none => string.length)
        ∧ p.argSum = sum.getD 0 ∧ p.argCrc = crc.getD 0

/-! ### The digit codec -/

/-- R100: `digitValue`, as the rule's two ranges and nothing else. -/
def Obligations.DigitValueMapsTheAlphabet : Prop :=
  ∀ (c : Byte) (d : Nibble), digitValue c = some d ↔
    (0x30 ≤ c.toNat ∧ c.toNat ≤ 0x39 ∧ d.toNat = c.toNat - 0x30)
      ∨ (0x41 ≤ c.toNat ∧ c.toNat ≤ 0x46 ∧ d.toNat = c.toNat - 0x37)

/-- R102: `hexValue` of a string of any length is the base-16 number its digits spell, most significant first, below `16^n`; with
any other character it raises InvalidDigit. -/
def Obligations.HexValueIsTheBase16Number : Prop :=
  ∀ s : List Byte,
    (∀ ds : List Nibble, s.map digitValue = ds.map some →
      hexValue s = some (Nat.ofDigits 16 (ds.reverse.map BitVec.toNat))
        ∧ Nat.ofDigits 16 (ds.reverse.map BitVec.toNat) < 16 ^ s.length)
      ∧ ((∃ c ∈ s, digitValue c = none) → hexValue s = none)

/-- R104: `bcdDecimal` of a string of any length is the decimal number its digits spell, in tenths, below `10^n`; a character that
is no hex digit, or a hex digit of 10 or more, raises InvalidDigit. -/
def Obligations.BcdDecimalIsTheDecimalNumber : Prop :=
  ∀ s : List Byte,
    (∀ ds : List Nibble, s.map digitValue = ds.map some → (∀ d ∈ ds, d.toNat < 10) →
      bcdDecimal s = some (Nat.ofDigits 10 (ds.reverse.map BitVec.toNat))
        ∧ Nat.ofDigits 10 (ds.reverse.map BitVec.toNat) < 10 ^ s.length)
      ∧ ((∃ c ∈ s, ∀ d, digitValue c = some d → 10 ≤ d.toNat) → bcdDecimal s = none)

/-- R101: DIGIT (`OP = 0001`). With a digit at `MSG[0]`, whatever `MSG_LEN` holds, `RESULT` is its value and `STATUS` OK; otherwise `STATUS` is
INVALID_DIGIT and `RESULT` 0. Every other register is 0; ports and parameters are untouched. -/
def Obligations.DigitConvertsOneCharacter : Prop :=
  decodeOp 0b0001 = .digit ∧ ∀ s : State, s.cfg.Legal →
    (∀ d, s.msgDigit 0 = some d →
      exec .digit s = .next (s.setRegs { OutRegs.reset with status := .ok, result := d.setWidth 16 }))
    ∧ (s.msgDigit 0 = none → exec .digit s = .next (s.setRegs { OutRegs.reset with status := .invalidDigit }))

/-- R103: HEX (`OP = 0010`), all its cases. -/
def Obligations.HexParsesUpToFourDigits : Prop :=
  decodeOp 0b0010 = .hex ∧ ∀ s : State, s.cfg.Legal →
    (4 < s.msgLength → exec .hex s = .next (s.setRegs { OutRegs.reset with status := .malformedLength }))
    ∧ (∀ ds : List Nibble, s.msgLength ≤ 4 → (List.range s.msgLength).map s.msgDigit = ds.map some →
        ∃ v : Half, v.toNat = Nat.ofDigits 16 (ds.reverse.map BitVec.toNat)
          ∧ exec .hex s = .next (s.setRegs { OutRegs.reset with status := .ok, result := v }))
    ∧ (∀ i, s.msgLength ≤ 4 → i < s.msgLength → s.msgDigit i = none →
        exec .hex s = .next (s.setRegs { OutRegs.reset with status := .invalidDigit }))

/-- R105: BCD (`OP = 0011`), all its cases. -/
def Obligations.BcdConvertsUpToFourDigits : Prop :=
  decodeOp 0b0011 = .bcd ∧ ∀ s : State, s.cfg.Legal →
    (4 < s.msgLength → exec .bcd s = .next (s.setRegs { OutRegs.reset with status := .malformedLength }))
    ∧ (∀ ds : List Nibble, s.msgLength ≤ 4 → (List.range s.msgLength).map s.msgDigit = ds.map some →
        (∀ d ∈ ds, d.toNat < 10) →
        ∃ v : Half, v.toNat = Nat.ofDigits 10 (ds.reverse.map BitVec.toNat) ∧ v.toNat ≤ 9999
          ∧ exec .bcd s = .next (s.setRegs { OutRegs.reset with status := .ok, result := v }))
    ∧ (∀ i, s.msgLength ≤ 4 → i < s.msgLength → (∀ d, s.msgDigit i = some d → 10 ≤ d.toNat) →
        exec .bcd s = .next (s.setRegs { OutRegs.reset with status := .invalidDigit }))

/-! ### IDENT -/

/-- R126 with R120 to R123: IDENT (`OP = 0100`), all its cases, the ID being the digits at `MSG[5]`, `MSG[8]`, `MSG[7]`, `MSG[10]` in that order.
Every register not named is 0. -/
def Obligations.IdentSelectsTheSubProtocol : Prop :=
  decodeOp 0b0100 = .ident ∧ ∀ s : State, s.cfg.Legal →
    ((s.msgLength ≤ 4 ∨ ¬ s.HeaderMatches) →
      exec .ident s = .next (s.setRegs { OutRegs.reset with status := .noDecoder }))
    ∧ (4 < s.msgLength → s.HeaderMatches → s.msgLength ≤ 11 →
        exec .ident s = .next (s.setRegs
          { OutRegs.reset with status := .malformedLength, hasReading := true, sensorClass := 1 }))
    ∧ (11 < s.msgLength → s.HeaderMatches → (∃ p ∈ [5, 8, 7, 10], s.msgDigit p = none) →
        exec .ident s = .next (s.setRegs
          { OutRegs.reset with status := .invalidDigit, hasReading := true, sensorClass := 1 }))
    ∧ ∀ a b c d : Nibble, 11 < s.msgLength → s.HeaderMatches →
        s.msgDigit 5 = some a → s.msgDigit 8 = some b → s.msgDigit 7 = some c → s.msgDigit 10 = some d →
        exec .ident s = .next (s.setRegs
          { OutRegs.reset with
            status := if a ++ b ++ c ++ d = 0xEC40#16 ∨ a ++ b ++ c ++ d = 0x1D20#16 then .ok else .unknownSubprotocol
            hasReading := true
            sensorClass := 1
            familyId := a ++ b ++ c ++ d
            subproto := if a ++ b ++ c ++ d = 0xEC40#16 then 1 else if a ++ b ++ c ++ d = 0x1D20#16 then 2 else 0 })

/-! ### DECODE -/

/-- R192, R193, R195, R196, R198: DECODE of a Temp-only message whose digits are all good and whose checksum matches commits the
whole Reading: every register, from the message's digits. -/
def Obligations.DecodeAcceptsATempOnlyMessage : Prop :=
  ∀ (s : State) (d : Nat → Nibble), s.cfg.Legal → s.msgLength = 21 → s.HeaderMatches →
    (∀ i ∈ [0, 2, 3, 4, 5, 6, 7, 8, 9, 10, 11, 12, 13, 15], s.bodyDigit i = some (d i)) →
    d 0 = 0xE → d 3 = 0xC → d 2 = 0x4 → d 5 = 0x0 →
    (∀ i ∈ [8, 10, 11], (d i).toNat < 10) →
    tempOnlyDigitSum d = 16 * (d 15).toNat + (d 12).toNat →
    exec .decode s = .next (s.setRegs
      { OutRegs.reset with
        status := .ok, hasReading := true, valid := true, sensorClass := 1, subproto := 1, familyId := 0xEC40
        temp := BitVec.ofInt 16
          ((if (d 13).getLsbD 3 then -1 else 1) * (100 * (d 10).toNat + 10 * (d 11).toNat + (d 8).toNat : Int))
        tempNeg := (d 13).getLsbD 3, hasTemp := true
        battLow := (d 9).getLsbD 2, hasBatt := true
        channel := s.cfg.channelMap[(d 4).toNat], hasChannel := true
        rolling := d 7 ++ d 6
        sumCalc := BitVec.ofNat 16 (tempOnlyDigitSum d), sumTx := d 15 ++ d 12 })

/-- R192, R196, R214: the same message with a checksum that does not match: CHECKSUM_MISMATCH, the selection and the diagnostics
are kept, every Reading field is 0. -/
def Obligations.DecodeRejectsAWrongTempOnlyChecksum : Prop :=
  ∀ (s : State) (d : Nat → Nibble), s.cfg.Legal → s.msgLength = 21 → s.HeaderMatches →
    (∀ i ∈ [0, 2, 3, 4, 5, 6, 7, 8, 9, 10, 11, 12, 13, 15], s.bodyDigit i = some (d i)) →
    d 0 = 0xE → d 3 = 0xC → d 2 = 0x4 → d 5 = 0x0 →
    (∀ i ∈ [8, 10, 11], (d i).toNat < 10) →
    tempOnlyDigitSum d ≠ 16 * (d 15).toNat + (d 12).toNat →
    exec .decode s = .next (s.setRegs
      { OutRegs.reset with
        status := .checksumMismatch, hasReading := true, sensorClass := 1, subproto := 1, familyId := 0xEC40
        rolling := d 7 ++ d 6
        sumCalc := BitVec.ofNat 16 (tempOnlyDigitSum d), sumTx := d 15 ++ d 12 })

/-- R192, R194, R195, R174, R198: DECODE of a Temp+Humidity message whose digits are all good, whose checksum matches and whose CRC
matches if it is enforced commits the whole Reading, with the CRC diagnostics. -/
def Obligations.DecodeAcceptsATempHumMessage : Prop :=
  ∀ (s : State) (d : Nat → Nibble), s.cfg.Legal → s.msgLength = 25 → s.HeaderMatches →
    (∀ i, i < 20 → i ≠ 1 → s.bodyDigit i = some (d i)) →
    d 0 = 0x1 → d 3 = 0xD → d 2 = 0x2 → d 5 = 0x0 →
    (∀ i ∈ [8, 10, 11, 12, 15], (d i).toNat < 10) →
    spanDigitSum 16 d = 16 * (d 16).toNat + (d 17).toNat →
    (s.cfg.crcEnforced = true → bodyOrderCrc d = d 18 ++ d 19) →
    exec .decode s = .next (s.setRegs
      { OutRegs.reset with
        status := .ok, hasReading := true, valid := true, sensorClass := 1, subproto := 2, familyId := 0x1D20
        temp := BitVec.ofInt 16
          ((if (d 13).getLsbD 3 then -1 else 1) * (100 * (d 10).toNat + 10 * (d 11).toNat + (d 8).toNat : Int))
        tempNeg := (d 13).getLsbD 3, hasTemp := true
        hum := BitVec.ofNat 16 (100 * (d 15).toNat + 10 * (d 12).toNat), hasHum := true
        battLow := (d 9).getLsbD 2, hasBatt := true
        channel := s.cfg.channelMap[(d 4).toNat], hasChannel := true
        rolling := d 7 ++ d 6
        sumCalc := BitVec.ofNat 16 (spanDigitSum 16 d), sumTx := d 16 ++ d 17
        crcCalc := bodyOrderCrc d, crcTx := d 18 ++ d 19
        crcPresent := true, crcMatch := decide (bodyOrderCrc d = d 18 ++ d 19) })

/-- R192, R174, R175, R214: the same message with a checksum that does not match, or with an enforced CRC that does not match:
CHECKSUM_MISMATCH, the selection and the diagnostics are kept, every Reading field is 0. -/
def Obligations.DecodeRejectsAFailedTempHumCheck : Prop :=
  ∀ (s : State) (d : Nat → Nibble), s.cfg.Legal → s.msgLength = 25 → s.HeaderMatches →
    (∀ i, i < 20 → i ≠ 1 → s.bodyDigit i = some (d i)) →
    d 0 = 0x1 → d 3 = 0xD → d 2 = 0x2 → d 5 = 0x0 →
    (∀ i ∈ [8, 10, 11, 12, 15], (d i).toNat < 10) →
    (spanDigitSum 16 d ≠ 16 * (d 16).toNat + (d 17).toNat
      ∨ (s.cfg.crcEnforced = true ∧ bodyOrderCrc d ≠ d 18 ++ d 19)) →
    exec .decode s = .next (s.setRegs
      { OutRegs.reset with
        status := .checksumMismatch, hasReading := true, sensorClass := 1, subproto := 2, familyId := 0x1D20
        rolling := d 7 ++ d 6
        sumCalc := BitVec.ofNat 16 (spanDigitSum 16 d), sumTx := d 16 ++ d 17
        crcCalc := bodyOrderCrc d, crcTx := d 18 ++ d 19
        crcPresent := true, crcMatch := decide (bodyOrderCrc d = d 18 ++ d 19) })

/-- R190, R141: DECODE's first five stages: where IDENT fails, DECODE ends in the very same state; where IDENT succeeds and the body
has not the length of the selected sub-protocol, DECODE ends with MALFORMED_LENGTH and otherwise IDENT's registers. -/
def Obligations.DecodeSelectsAsIdentDoes : Prop :=
  ∀ (s t : State), s.cfg.Legal → exec .ident s = .next t →
    (t.regs.status ≠ .ok → exec .decode s = .next t)
    ∧ (t.regs.status = .ok → s.msgLength ≠ (if t.regs.subproto = 1 then 21 else 25) →
        exec .decode s = .next (s.setRegs { t.regs with status := .malformedLength }))

/-- R190, R211, R214: DECODE of a message of the right length in which some digit it reads is bad (no hex digit, or a BCD digit of
10 or more) ends with INVALID_DIGIT and otherwise IDENT's registers, whatever the checksum and CRC would be. -/
def Obligations.DecodeRejectsABadDigit : Prop :=
  ∀ (s t : State), s.cfg.Legal → exec .ident s = .next t → t.regs.status = .ok →
    s.msgLength = (if t.regs.subproto = 1 then 21 else 25) →
    (∃ i, (if t.regs.subproto = 1 then i < 16 ∧ i ≠ 1 ∧ i ≠ 14 else i < 20 ∧ i ≠ 1)
        ∧ (s.bodyDigit i = none
          ∨ ∃ d, s.bodyDigit i = some d ∧ 10 ≤ d.toNat
              ∧ (i ∈ [8, 10, 11] ∨ (t.regs.subproto = 2 ∧ i ∈ [12, 15])))) →
    exec .decode s = .next (s.setRegs { t.regs with status := .invalidDigit })

/-- R142 to R146: what an accepted Reading says about the message that gave it: the raw channel through `CHANNEL_MAP` (codes 1, 2
and 4 to 1, 2 and 3), the rolling code, the battery bit, the signed temperature in tenths, and for Temp+Humidity the humidity in
tenths. -/
def Obligations.AcceptedReadingMatchesTheWire : Prop :=
  ∀ (s t : State), s.cfg.Legal → exec .decode s = .next t → t.regs.status = .ok →
    ∃ d : Nat → Nibble, (∀ i ∈ [4, 6, 7, 8, 9, 10, 11, 12, 13, 15], s.bodyDigit i = some (d i))
      ∧ t.regs.channel = s.cfg.channelMap[(d 4).toNat]
      ∧ (d 4 = 1 → t.regs.channel = 1) ∧ (d 4 = 2 → t.regs.channel = 2) ∧ (d 4 = 4 → t.regs.channel = 3)
      ∧ t.regs.rolling.toNat = 16 * (d 7).toNat + (d 6).toNat
      ∧ t.regs.battLow = (d 9).getLsbD 2
      ∧ t.regs.tempNeg = (d 13).getLsbD 3
      ∧ t.regs.temp.toInt
          = (if (d 13).getLsbD 3 then -1 else 1) * (100 * (d 10).toNat + 10 * (d 11).toNat + (d 8).toNat : Int)
      ∧ (t.regs.subproto = 1 → t.regs.hum = 0 ∧ t.regs.hasHum = false)
      ∧ (t.regs.subproto = 2 → t.regs.hum.toNat = 100 * (d 15).toNat + 10 * (d 12).toNat ∧ t.regs.hasHum = true)

/-- R61, R124: the only messages DECODE accepts: length 21 with ID 0xEC40, or length 25 with ID 0x1D20. -/
def Obligations.OnlyTwoMessageLengthsDecode : Prop :=
  ∀ (s t : State), s.cfg.Legal → exec .decode s = .next t → t.regs.status = .ok →
    (s.msgLength = 21 ∧ t.regs.subproto = 1 ∧ t.regs.familyId = 0xEC40)
      ∨ (s.msgLength = 25 ∧ t.regs.subproto = 2 ∧ t.regs.familyId = 0x1D20)

/-- R31: `VALID = 1` exactly after a DECODE that ends with OK; under an enforced CRC a valid Temp+Humidity Reading has a matching
CRC. -/
def Obligations.ValidExactlyWhenDecodeSucceeds : Prop :=
  ∀ (i : Instr) (s t : State), s.cfg.Legal → exec i s = .next t →
    (t.regs.valid = true ↔ i = .decode ∧ t.regs.status = .ok)
    ∧ (t.regs.valid = true → s.cfg.crcEnforced = true → t.regs.subproto = 2 → t.regs.crcMatch = true)

/-- The source's testable property on corrupted checksums (V-SRC-6; R147 to R149, R174, R196): replacing one transmitted checksum
character of a message DECODE accepts by another hex digit makes DECODE end with CHECKSUM_MISMATCH and `VALID = 0`. -/
def Obligations.CorruptedChecksumDigitIsRejected : Prop :=
  ∀ (s t : State) (m : Memory) (p : Nat) (d : Nibble), s.cfg.Legal → exec .decode s = .next t → t.regs.status = .ok →
    p ∈ (if s.msgLength = 21 then [17, 20] else [21, 22]) →
    (∀ q, q ≠ p → m.read q = s.msgChar q) → digitValue (m.read p) = some d → s.msgDigit p ≠ some d →
    ∃ u, exec .decode (s.withMsg m) = .next u ∧ u.regs.status = .checksumMismatch ∧ u.regs.valid = false

/-! ### VALIDATE, TSUM and the reserved encodings -/

/-- R170: the working copy of a span of even length: `w[j] = span[j XOR 1]`. -/
def Obligations.WorkingCopySwapsNeighbours : Prop :=
  ∀ span : List Byte, span.length % 2 = 0 →
    (swapPairs span).length = span.length ∧ ∀ j, j < span.length → (swapPairs span)[j]? = span[j ^^^ 1]?

/-- R177: the CRC of a 16-digit span, walked in original positions. -/
def Obligations.CrcWalkInBodyOrder : Prop :=
  ∀ (span : List Byte) (d : Nat → Nibble), span.length = 16 →
    (∀ i, i < 16 → i ≠ 1 → span[i]?.bind digitValue = some (d i)) →
    vcrc (swapPairs span) = some (bodyOrderCrc d)

/-- R176 with R171, R173, R175: VALIDATE (`OP = 0101`), all its cases. -/
def Obligations.ValidateChecksTheSpan : Prop :=
  decodeOp 0b0101 = .validate ∧ ∀ s : State, s.cfg.Legal →
    ((s.cfg.msgMax < s.msgLength ∨ s.msgLength % 2 = 1) →
      exec .validate s = .next (s.setRegs { OutRegs.reset with status := .malformedLength }))
    ∧ (∀ i, s.msgLength ≤ s.cfg.msgMax → s.msgLength % 2 = 0 → i < s.msgLength → i ≠ 1 → s.msgDigit i = none →
        exec .validate s = .next (s.setRegs { OutRegs.reset with status := .invalidDigit }))
    ∧ ∀ d : Nat → Nibble, s.msgLength ≤ s.cfg.msgMax → s.msgLength % 2 = 0 →
        (∀ i, i < s.msgLength → i ≠ 1 → s.msgDigit i = some (d i)) →
        ∃ sum : Half, sum.toNat = spanDigitSum s.msgLength d
          ∧ exec .validate s = .next (s.setRegs
              { OutRegs.reset with
                status :=
                  if sum.toNat = s.ports.argSum.toNat
                      ∧ (s.cfg.crcEnforced = true → spanDigitCrc s.msgLength d = s.ports.argCrc)
                  then .ok else .checksumMismatch
                sumCalc := sum, sumTx := s.ports.argSum
                crcCalc := spanDigitCrc s.msgLength d, crcTx := s.ports.argCrc
                crcPresent := true, crcMatch := decide (spanDigitCrc s.msgLength d = s.ports.argCrc) })

/-- The CRC detects every change of a single digit (from R172, R173): if one digit VALIDATE reads is replaced by a different digit,
and nothing else changes, `CRC_CALC` changes. -/
def Obligations.CrcDetectsAnySingleDigitChange : Prop :=
  ∀ (s t u : State) (m : Memory) (p : Nat) (a b : Nibble), s.cfg.Legal →
    (∀ q, q ≠ p → m.read q = s.msgChar q) → p < s.msgLength → p ≠ 1 →
    s.msgDigit p = some a → digitValue (m.read p) = some b → a ≠ b →
    exec .validate s = .next t → exec .validate (s.withMsg m) = .next u → t.regs.crcPresent = true →
    u.regs.crcPresent = true ∧ t.regs.crcCalc ≠ u.regs.crcCalc

/-- R150 with R148, R149: TSUM (`OP = 0110`), all its cases. -/
def Obligations.TsumChecksATempOnlyBody : Prop :=
  decodeOp 0b0110 = .tsum ∧ ∀ s : State, s.cfg.Legal →
    (s.msgLength ≠ 16 → exec .tsum s = .next (s.setRegs { OutRegs.reset with status := .malformedLength }))
    ∧ (∀ i, s.msgLength = 16 → i < 16 → i ≠ 1 → i ≠ 14 → s.msgDigit i = none →
        exec .tsum s = .next (s.setRegs { OutRegs.reset with status := .invalidDigit }))
    ∧ ∀ d : Nat → Nibble, s.msgLength = 16 → (∀ i, i < 16 → i ≠ 1 → i ≠ 14 → s.msgDigit i = some (d i)) →
        exec .tsum s = .next (s.setRegs
          { OutRegs.reset with
            status := if tempOnlyDigitSum d = 16 * (d 15).toNat + (d 12).toNat then .ok else .checksumMismatch
            sumCalc := BitVec.ofNat 16 (tempOnlyDigitSum d), sumTx := d 15 ++ d 12 })

/-- R83: a reserved `OP` value clears every output register and sets `STATUS` to 6, whatever else stands on the ports and in the
registers. -/
def Obligations.ReservedEncodingsReportIllegalOp : Prop :=
  (∀ s : State, exec .reserved7 s = .next (s.setRegs { OutRegs.reset with status := .illegalOp }))
    ∧ (∀ (s : State) x, exec (.reservedHigh x) s = .next (s.setRegs { OutRegs.reset with status := .illegalOp }))
    ∧ ∀ s : State, s.ports.reset = false → 7 ≤ s.ports.op.toNat →
        step s = .next (s.setRegs { OutRegs.reset with status := .illegalOp })

/-! ### The whole machine -/

/-- R247, R72, R63, R211: every command completes on every input: under legal parameters it answers a next state, and only reset
leaves IDLE. -/
def Obligations.EveryCommandCompletes : Prop :=
  ∀ (i : Instr) (s : State), s.cfg.Legal → ∃ t, exec i s = .next t ∧ t.regs.status ≠ .idle

/-- R66, R22: a command changes nothing but the output register file: every port, every character of `MSG` and the parameters are
as before. -/
def Obligations.CommandsChangeOnlyTheRegisterFile : Prop :=
  ∀ (i : Instr) (s t : State), exec i s = .next t →
    t.ports = s.ports ∧ t.cfg = s.cfg ∧ ∀ a, t.ports.msg.read a = s.ports.msg.read a

/-- R23, R24, R199, R216: nothing carries over: a command's result does not depend on the register file before it, and the same
command on the same inputs, performed again, gives bit-identical registers. -/
def Obligations.CommandsForgetEarlierRegisters : Prop :=
  ∀ (i : Instr) (s t : State), exec i s = .next t →
    (∀ r : OutRegs, exec i (s.setRegs r) = .next t) ∧ exec i t = .next t

/-- R63, R64, R65: a character at a position R63 does not let the command read at this `MSG_LEN`, a length the command refuses
included, affects no output register. (DIGIT reads `MSG[0]` even when `MSG_LEN = 0`: log entry 7.) -/
def Obligations.UnreadCharactersHaveNoEffect : Prop :=
  ∀ (i : Instr) (s t : State) (m : Memory), s.cfg.Legal →
    (∀ p, MayRead s.cfg.msgMax s.msgLength i p → m.read p = s.msgChar p) → exec i s = .next t →
    exec i (s.withMsg m) = .next (t.withMsg m)

/-- R82, R101: a port an operation ignores affects no output register: `ARG_SUM` and `ARG_CRC` matter to VALIDATE alone, and DIGIT
and the reserved encodings ignore `MSG_LEN`. -/
def Obligations.IgnoredPortsHaveNoEffect : Prop :=
  ∀ (i : Instr) (s t : State), exec i s = .next t →
    (i ≠ .validate → ∀ a b, exec i (s.withArgs a b) = .next (t.withArgs a b))
    ∧ ((i = .digit ∨ i = .reserved7 ∨ ∃ x, i = .reservedHigh x) → ∀ n, exec i (s.withLen n) = .next (t.withLen n))

/-- R214, R197, R29: what any failure leaves: `RESULT` and the Reading fields 0, the diagnostics 0 unless the code is
CHECKSUM_MISMATCH, and the selection registers only as far as the stages got. -/
def Obligations.FailureLeavesNoPartialResult : Prop :=
  ∀ (i : Instr) (s t : State), s.cfg.Legal → exec i s = .next t → t.regs.status ≠ .ok →
    t.regs.result = 0 ∧ t.regs.valid = false ∧ t.regs.FieldsZero
      ∧ (t.regs.status ≠ .checksumMismatch → t.regs.DiagnosticsZero)
      ∧ (t.regs.hasReading = true ↔ t.regs.sensorClass = 1)
      ∧ (t.regs.status = .noDecoder → t.regs.hasReading = false)
      ∧ (t.regs.status = .unknownSubprotocol → t.regs.hasReading = true ∧ t.regs.subproto = 0
          ∧ t.regs.familyId ≠ 0xEC40 ∧ t.regs.familyId ≠ 0x1D20)

/-- R30, R29: the invariants of the output register file hold after every operation and after reset, from any state with legal
parameters. -/
def Obligations.RegisterFileIsConsistent : Prop :=
  ∀ s t : State, s.cfg.Legal → step s = .next t →
    t.regs.Consistent ∧ (t.regs.valid = false → t.regs.FieldsZero)

/-- R27: every register takes only the values its "legal values" entry lists, after every operation and after reset. (That
`CHANNEL`'s entry, the range of `CHANNEL_MAP`, binds it only when `HAS_CHANNEL = 1`, the register being 0 otherwise by R23, R29 and
R34, is the model's reading: log entry 18.) -/
def Obligations.RegistersStayInTheirLegalRange : Prop :=
  ∀ s t : State, s.cfg.Legal → step s = .next t → t.regs.InRange s.cfg

/-- R175: CRC enforcement. Not enforced, the transmitted CRC changes no other register than its own diagnostics: other hex digits at
`MSG[23]` and `MSG[24]` (DECODE), or another `ARG_CRC` (VALIDATE), leave `STATUS`, `VALID` and the Reading. Enforced, an operation
that ends with OK and has a CRC has a matching one. -/
def Obligations.CrcGatesOnlyWhenEnforced : Prop :=
  (∀ (s t : State) (m : Memory), s.cfg.Legal → s.cfg.crcEnforced = false → s.msgLength = 25 →
      (∀ q, q ≠ 23 → q ≠ 24 → m.read q = s.msgChar q) →
      s.msgDigit 23 ≠ none → s.msgDigit 24 ≠ none → digitValue (m.read 23) ≠ none → digitValue (m.read 24) ≠ none →
      exec .decode s = .next t →
      ∃ u, exec .decode (s.withMsg m) = .next u
        ∧ { u.regs with crcTx := t.regs.crcTx, crcMatch := t.regs.crcMatch } = t.regs)
    ∧ (∀ (s t : State) (c : Byte), s.cfg.Legal → s.cfg.crcEnforced = false → exec .validate s = .next t →
        ∃ u, exec .validate (s.withArgs s.ports.argSum c) = .next u
          ∧ { u.regs with crcTx := t.regs.crcTx, crcMatch := t.regs.crcMatch } = t.regs)
    ∧ ∀ (i : Instr) (s t : State), s.cfg.Legal → s.cfg.crcEnforced = true → exec i s = .next t →
        t.regs.status = .ok → t.regs.crcPresent = true → t.regs.crcMatch = true

/-- R8, R27, R29, R30, R60, R66: every step keeps the invariant: legal parameters, ports in canonical form, and a register file with
legal values, consistent flags and no field without a valid Reading. (How `CHANNEL`'s legal values are read is log entry 18.) -/
def Obligations.EveryStepKeepsTheInvariant : Prop :=
  ∀ s t : State, s.Inv → step s = .next t → t.Inv

/-- R34, R241: the reset state meets the invariant. (Its default parameters and resting ports are the model's choice: log entries 1
and 3. How `CHANNEL`'s legal values are read is log entry 18.) -/
def Obligations.ResetMeetsTheInvariant : Prop := State.reset.Inv

/-- R210, R247: a run never stops: from every state that meets the invariant, any number of steps answers a next state that meets
it. -/
def Obligations.RunsNeverStop : Prop := ∀ s : State, s.Inv → s.RunsSafely

/-- R85, R86, R249, R210: a host program of lines the syntax can spell runs to its end from every state that meets the invariant,
keeps the parameters, and returns one value for each READ line. From any state, what a program returns is the sequence of the
values its lines return, each line run from the state the lines before it left: an empty program changes and returns nothing, a
program of one line leaves and returns what the line does, and a program in two parts runs the second from where the first ends
and returns the first part's values followed by the second's. -/
def Obligations.HostProgramsRunToTheirEnd : Prop :=
  (∀ (ls : List HostLine) (s : State), s.Inv → (∀ l ∈ ls, l.wf = true) →
    ∃ t vs, runProgram s ls = .next (t, vs) ∧ t.Inv ∧ t.cfg = s.cfg
      ∧ vs.length = (ls.filter fun l => match l with | .read _ => true | _ => false).length)
  ∧ (∀ s : State, runProgram s [] = .next (s, []))
  ∧ (∀ (l : HostLine) (s t : State) v, runLine s l = .next (t, v) → runProgram s [l] = .next (t, v.toList))
  ∧ ∀ (ks ls : List HostLine) (s t u : State) vs ws, runProgram s ks = .next (t, vs) → runProgram t ls = .next (u, ws) →
      runProgram s (ks ++ ls) = .next (u, vs ++ ws)
end

