-- ==== Sys2Proof/Laws/Codec.lean ====
section
/-! SUPPORT. The laws of the digit folds: each fold over a string goes through its digits, and fails exactly when some character
is no digit. -/

namespace Sys2Proof.Machine

/-- A digit is below 16. -/
theorem digit_lt (d : Nibble) : d.toNat < 16 := d.isLt

/-- A BCD digit is a hex digit below 10. -/
theorem bcdDigit_eq_some {c : Byte} {d : Nibble} : bcdDigit c = some d ↔ digitValue c = some d ∧ d.toNat < 10 := by
  unfold bcdDigit
  cases digitValue c with
  | none => simp
  | some e =>
    simp only [Option.some.injEq]
    split
    · simp only [reduceCtorEq, false_iff]
      rintro ⟨rfl, h⟩
      omega
    · constructor
      · intro h
        cases h
        exact ⟨rfl, by omega⟩
      · rintro ⟨rfl, -⟩
        rfl

@[simp] theorem foldDigits_nil (digit : Byte → Option Nibble) (base r : Nat) : foldDigits digit base [] r = some r := rfl

theorem foldDigits_cons_some {digit : Byte → Option Nibble} {c : Byte} {d : Nibble} (h : digit c = some d) (base r : Nat)
    (cs : List Byte) : foldDigits digit base (c :: cs) r = foldDigits digit base cs (r * base + d.toNat) := by
  simp [foldDigits, h]

theorem foldDigits_cons_none {digit : Byte → Option Nibble} {c : Byte} (h : digit c = none) (base r : Nat)
    (cs : List Byte) : foldDigits digit base (c :: cs) r = none := by
  simp [foldDigits, h]

/-- A fold that answers has gone through digits only. -/
theorem foldDigits_isSome_iff {digit : Byte → Option Nibble} {base : Nat} {cs : List Byte} {r : Nat} :
    (foldDigits digit base cs r).isSome ↔ ∀ c ∈ cs, (digit c).isSome := by
  induction cs generalizing r with
  | nil => simp
  | cons c cs ih =>
    cases h : digit c with
    | none => simp [foldDigits_cons_none h, h]
    | some d => simp [foldDigits_cons_some h, ih, h]

/-- A fold over a string whose digits are `ds`. -/
theorem foldDigits_of_digits {digit : Byte → Option Nibble} {base : Nat} {cs : List Byte} {ds : List Nibble}
    (h : cs.map digit = ds.map some) (r : Nat) :
    foldDigits digit base cs r = some (ds.foldl (fun r d => r * base + d.toNat) r) := by
  induction cs generalizing ds r with
  | nil =>
    cases ds with
    | nil => rfl
    | cons => simp at h
  | cons c cs ih =>
    cases ds with
    | nil => simp at h
    | cons d ds =>
      simp only [List.map_cons, List.cons.injEq] at h
      rw [foldDigits_cons_some h.1, ih h.2, List.foldl_cons]

@[simp] theorem digitSum_nil (s : Nat) : digitSum [] s = some s := rfl

theorem digitSum_cons_some {c : Byte} {d : Nibble} (h : digitValue c = some d) (s : Nat) (cs : List Byte) :
    digitSum (c :: cs) s = digitSum cs (s + d.toNat) := by
  simp [digitSum, h]

theorem digitSum_cons_none {c : Byte} (h : digitValue c = none) (s : Nat) (cs : List Byte) :
    digitSum (c :: cs) s = none := by
  simp [digitSum, h]

/-- A sum that answers has gone through digits only. -/
theorem digitSum_isSome_iff {cs : List Byte} {s : Nat} : (digitSum cs s).isSome ↔ ∀ c ∈ cs, (digitValue c).isSome := by
  induction cs generalizing s with
  | nil => simp
  | cons c cs ih =>
    cases h : digitValue c with
    | none => simp [digitSum_cons_none h, h]
    | some d => simp [digitSum_cons_some h, ih, h]

/-- The sum over a string whose digits are `ds`. -/
theorem digitSum_of_digits {cs : List Byte} {ds : List Nibble} (h : cs.map digitValue = ds.map some) (s : Nat) :
    digitSum cs s = some (s + (ds.map BitVec.toNat).sum) := by
  induction cs generalizing ds s with
  | nil =>
    cases ds with
    | nil => rfl
    | cons => simp at h
  | cons c cs ih =>
    cases ds with
    | nil => simp at h
    | cons d ds =>
      simp only [List.map_cons, List.cons.injEq] at h
      rw [digitSum_cons_some h.1, ih h.2, List.map_cons, List.sum_cons, Nat.add_assoc]

/-- A sum of digits is at most 15 for each. -/
theorem digitSum_le {cs : List Byte} {s v : Nat} (h : digitSum cs s = some v) : v ≤ s + 15 * cs.length := by
  induction cs generalizing s with
  | nil =>
    cases h
    omega
  | cons c cs ih =>
    cases hd : digitValue c with
    | none => simp [digitSum_cons_none hd] at h
    | some d =>
      rw [digitSum_cons_some hd] at h
      have := ih h
      have := digit_lt d
      simp only [List.length_cons]
      omega

@[simp] theorem crcWalk_nil (j : Nat) (crc : Byte) : crcWalk j crc [] = some crc := rfl

theorem crcWalk_cons_some {c : Byte} {d : Nibble} (h : digitValue c = some d) (j : Nat) (crc : Byte) (cs : List Byte) :
    crcWalk j crc (c :: cs) = crcWalk (j + 1) (crcStep j crc d) cs := by
  simp [crcWalk, h]

theorem crcWalk_cons_none {c : Byte} (h : digitValue c = none) (j : Nat) (crc : Byte) (cs : List Byte) :
    crcWalk j crc (c :: cs) = none := by
  simp [crcWalk, h]

/-- A walk that answers has gone through digits only. -/
theorem crcWalk_isSome_iff {cs : List Byte} {j : Nat} {crc : Byte} :
    (crcWalk j crc cs).isSome ↔ ∀ c ∈ cs, (digitValue c).isSome := by
  induction cs generalizing j crc with
  | nil => simp
  | cons c cs ih =>
    cases h : digitValue c with
    | none => simp [crcWalk_cons_none h, h]
    | some d => simp [crcWalk_cons_some h, ih, h]

/-- The checksum and the CRC of a working copy are defined together. -/
theorem vcrc_isSome_iff {w : List Byte} : (vcrc w).isSome ↔ (vsum w).isSome := by
  have h : (vcrc w).isSome ↔ (crcWalk 1 crcInit (w.drop 1)).isSome := by
    unfold vcrc
    cases crcWalk 1 crcInit (w.drop 1) <;> simp
  rw [h, crcWalk_isSome_iff, vsum, digitSum_isSome_iff]

@[simp] theorem swapPairs_length (l : List Byte) : (swapPairs l).length = l.length := by
  induction l using swapPairs.induct with
  | case1 a b rest ih => simp [swapPairs, ih]
  | case2 l h =>
    cases l with
    | nil => rfl
    | cons a l =>
      cases l with
      | nil => rfl
      | cons b l => exact absurd rfl (h a b l)

end Sys2Proof.Machine
end

