-- ==== Sys2Proof/Laws/State.lean ====
section
/-! SUPPORT. The field lemmas of every named update of the register file and of the state: what each update writes and what it
leaves, so that no later proof unfolds a record update. -/

namespace Sys2Proof.Machine

/-! ### The state -/

@[simp] theorem State.setRegs_regs (s : State) (r : OutRegs) : (s.setRegs r).regs = r := rfl
@[simp] theorem State.setRegs_ports (s : State) (r : OutRegs) : (s.setRegs r).ports = s.ports := rfl
@[simp] theorem State.setRegs_cfg (s : State) (r : OutRegs) : (s.setRegs r).cfg = s.cfg := rfl
@[simp] theorem State.setPorts_regs (s : State) (p : Ports) : (s.setPorts p).regs = s.regs := rfl
@[simp] theorem State.setPorts_ports (s : State) (p : Ports) : (s.setPorts p).ports = p := rfl
@[simp] theorem State.setPorts_cfg (s : State) (p : Ports) : (s.setPorts p).cfg = s.cfg := rfl
@[simp] theorem State.setRegs_setRegs (s : State) (r q : OutRegs) : (s.setRegs r).setRegs q = s.setRegs q := rfl
@[simp] theorem State.setPorts_setPorts (s : State) (p q : Ports) : (s.setPorts p).setPorts q = s.setPorts q := rfl
@[simp] theorem State.snapshot_ports (s : State) : s.snapshot.ports = s.ports := rfl
@[simp] theorem State.snapshot_cfg (s : State) : s.snapshot.cfg = s.cfg := rfl
@[simp] theorem State.snapshot_setRegs (s : State) (r : OutRegs) : (s.setRegs r).snapshot = s.snapshot := rfl
@[simp] theorem State.assertReset_regs (s : State) : s.assertReset.regs = OutRegs.reset := rfl
@[simp] theorem State.assertReset_ports (s : State) : s.assertReset.ports = s.ports := rfl
@[simp] theorem State.assertReset_cfg (s : State) : s.assertReset.cfg = s.cfg := rfl
@[simp] theorem State.present_regs (s : State) (w : Nat) : (s.present w).regs = s.regs := rfl
@[simp] theorem State.present_cfg (s : State) (w : Nat) : (s.present w).cfg = s.cfg := rfl
@[simp] theorem State.present_ports (s : State) (w : Nat) :
    (s.present w).ports = { s.ports with op := BitVec.ofNat 4 w, reset := false } := rfl

/-! ### Reset (R34) -/

@[simp] theorem OutRegs.reset_status : OutRegs.reset.status = .idle := rfl
@[simp] theorem OutRegs.reset_result : OutRegs.reset.result = 0 := rfl
@[simp] theorem OutRegs.reset_hasReading : OutRegs.reset.hasReading = false := rfl
@[simp] theorem OutRegs.reset_valid : OutRegs.reset.valid = false := rfl
@[simp] theorem OutRegs.reset_sensorClass : OutRegs.reset.sensorClass = 0 := rfl
@[simp] theorem OutRegs.reset_subproto : OutRegs.reset.subproto = 0 := rfl
@[simp] theorem OutRegs.reset_familyId : OutRegs.reset.familyId = 0 := rfl
@[simp] theorem OutRegs.reset_temp : OutRegs.reset.temp = 0 := rfl
@[simp] theorem OutRegs.reset_tempNeg : OutRegs.reset.tempNeg = false := rfl
@[simp] theorem OutRegs.reset_hasTemp : OutRegs.reset.hasTemp = false := rfl
@[simp] theorem OutRegs.reset_hum : OutRegs.reset.hum = 0 := rfl
@[simp] theorem OutRegs.reset_hasHum : OutRegs.reset.hasHum = false := rfl
@[simp] theorem OutRegs.reset_battLow : OutRegs.reset.battLow = false := rfl
@[simp] theorem OutRegs.reset_hasBatt : OutRegs.reset.hasBatt = false := rfl
@[simp] theorem OutRegs.reset_channel : OutRegs.reset.channel = 0 := rfl
@[simp] theorem OutRegs.reset_hasChannel : OutRegs.reset.hasChannel = false := rfl
@[simp] theorem OutRegs.reset_rolling : OutRegs.reset.rolling = 0 := rfl
@[simp] theorem OutRegs.reset_sumCalc : OutRegs.reset.sumCalc = 0 := rfl
@[simp] theorem OutRegs.reset_sumTx : OutRegs.reset.sumTx = 0 := rfl
@[simp] theorem OutRegs.reset_crcCalc : OutRegs.reset.crcCalc = 0 := rfl
@[simp] theorem OutRegs.reset_crcTx : OutRegs.reset.crcTx = 0 := rfl
@[simp] theorem OutRegs.reset_crcPresent : OutRegs.reset.crcPresent = false := rfl
@[simp] theorem OutRegs.reset_crcMatch : OutRegs.reset.crcMatch = false := rfl

/-! ### The clear on entry (R191) -/

@[simp] theorem OutRegs.clear_status (r : OutRegs) : r.clear.status = r.status := rfl
@[simp] theorem OutRegs.clear_result (r : OutRegs) : r.clear.result = 0 := rfl
@[simp] theorem OutRegs.clear_hasReading (r : OutRegs) : r.clear.hasReading = false := rfl
@[simp] theorem OutRegs.clear_valid (r : OutRegs) : r.clear.valid = false := rfl
@[simp] theorem OutRegs.clear_sensorClass (r : OutRegs) : r.clear.sensorClass = 0 := rfl
@[simp] theorem OutRegs.clear_subproto (r : OutRegs) : r.clear.subproto = 0 := rfl
@[simp] theorem OutRegs.clear_familyId (r : OutRegs) : r.clear.familyId = 0 := rfl
@[simp] theorem OutRegs.clear_temp (r : OutRegs) : r.clear.temp = 0 := rfl
@[simp] theorem OutRegs.clear_tempNeg (r : OutRegs) : r.clear.tempNeg = false := rfl
@[simp] theorem OutRegs.clear_hasTemp (r : OutRegs) : r.clear.hasTemp = false := rfl
@[simp] theorem OutRegs.clear_hum (r : OutRegs) : r.clear.hum = 0 := rfl
@[simp] theorem OutRegs.clear_hasHum (r : OutRegs) : r.clear.hasHum = false := rfl
@[simp] theorem OutRegs.clear_battLow (r : OutRegs) : r.clear.battLow = false := rfl
@[simp] theorem OutRegs.clear_hasBatt (r : OutRegs) : r.clear.hasBatt = false := rfl
@[simp] theorem OutRegs.clear_channel (r : OutRegs) : r.clear.channel = 0 := rfl
@[simp] theorem OutRegs.clear_hasChannel (r : OutRegs) : r.clear.hasChannel = false := rfl
@[simp] theorem OutRegs.clear_rolling (r : OutRegs) : r.clear.rolling = 0 := rfl
@[simp] theorem OutRegs.clear_sumCalc (r : OutRegs) : r.clear.sumCalc = 0 := rfl
@[simp] theorem OutRegs.clear_sumTx (r : OutRegs) : r.clear.sumTx = 0 := rfl
@[simp] theorem OutRegs.clear_crcCalc (r : OutRegs) : r.clear.crcCalc = 0 := rfl
@[simp] theorem OutRegs.clear_crcTx (r : OutRegs) : r.clear.crcTx = 0 := rfl
@[simp] theorem OutRegs.clear_crcPresent (r : OutRegs) : r.clear.crcPresent = false := rfl
@[simp] theorem OutRegs.clear_crcMatch (r : OutRegs) : r.clear.crcMatch = false := rfl

/-- With `STATUS` written, nothing of the earlier register file is left. -/
theorem OutRegs.clear_setStatus (r : OutRegs) (code : StatusCode) :
    r.clear.setStatus code = { OutRegs.reset with status := code } := rfl

/-! ### `setStatus` -/

@[simp] theorem OutRegs.setStatus_status (r : OutRegs) (code : StatusCode) : (r.setStatus code).status = code := rfl
@[simp] theorem OutRegs.setStatus_result (r : OutRegs) (code : StatusCode) : (r.setStatus code).result = r.result := rfl
@[simp] theorem OutRegs.setStatus_hasReading (r : OutRegs) (code : StatusCode) :
    (r.setStatus code).hasReading = r.hasReading := rfl
@[simp] theorem OutRegs.setStatus_valid (r : OutRegs) (code : StatusCode) : (r.setStatus code).valid = r.valid := rfl
@[simp] theorem OutRegs.setStatus_sensorClass (r : OutRegs) (code : StatusCode) :
    (r.setStatus code).sensorClass = r.sensorClass := rfl
@[simp] theorem OutRegs.setStatus_subproto (r : OutRegs) (code : StatusCode) :
    (r.setStatus code).subproto = r.subproto := rfl
@[simp] theorem OutRegs.setStatus_familyId (r : OutRegs) (code : StatusCode) :
    (r.setStatus code).familyId = r.familyId := rfl
@[simp] theorem OutRegs.setStatus_temp (r : OutRegs) (code : StatusCode) : (r.setStatus code).temp = r.temp := rfl
@[simp] theorem OutRegs.setStatus_tempNeg (r : OutRegs) (code : StatusCode) : (r.setStatus code).tempNeg = r.tempNeg := rfl
@[simp] theorem OutRegs.setStatus_hasTemp (r : OutRegs) (code : StatusCode) : (r.setStatus code).hasTemp = r.hasTemp := rfl
@[simp] theorem OutRegs.setStatus_hum (r : OutRegs) (code : StatusCode) : (r.setStatus code).hum = r.hum := rfl
@[simp] theorem OutRegs.setStatus_hasHum (r : OutRegs) (code : StatusCode) : (r.setStatus code).hasHum = r.hasHum := rfl
@[simp] theorem OutRegs.setStatus_battLow (r : OutRegs) (code : StatusCode) : (r.setStatus code).battLow = r.battLow := rfl
@[simp] theorem OutRegs.setStatus_hasBatt (r : OutRegs) (code : StatusCode) : (r.setStatus code).hasBatt = r.hasBatt := rfl
@[simp] theorem OutRegs.setStatus_channel (r : OutRegs) (code : StatusCode) : (r.setStatus code).channel = r.channel := rfl
@[simp] theorem OutRegs.setStatus_hasChannel (r : OutRegs) (code : StatusCode) :
    (r.setStatus code).hasChannel = r.hasChannel := rfl
@[simp] theorem OutRegs.setStatus_rolling (r : OutRegs) (code : StatusCode) : (r.setStatus code).rolling = r.rolling := rfl
@[simp] theorem OutRegs.setStatus_sumCalc (r : OutRegs) (code : StatusCode) : (r.setStatus code).sumCalc = r.sumCalc := rfl
@[simp] theorem OutRegs.setStatus_sumTx (r : OutRegs) (code : StatusCode) : (r.setStatus code).sumTx = r.sumTx := rfl
@[simp] theorem OutRegs.setStatus_crcCalc (r : OutRegs) (code : StatusCode) : (r.setStatus code).crcCalc = r.crcCalc := rfl
@[simp] theorem OutRegs.setStatus_crcTx (r : OutRegs) (code : StatusCode) : (r.setStatus code).crcTx = r.crcTx := rfl
@[simp] theorem OutRegs.setStatus_crcPresent (r : OutRegs) (code : StatusCode) :
    (r.setStatus code).crcPresent = r.crcPresent := rfl
@[simp] theorem OutRegs.setStatus_crcMatch (r : OutRegs) (code : StatusCode) :
    (r.setStatus code).crcMatch = r.crcMatch := rfl

/-! ### `writeResult` -/

@[simp] theorem OutRegs.writeResult_status (r : OutRegs) (v : Half) : (r.writeResult v).status = r.status := rfl
@[simp] theorem OutRegs.writeResult_result (r : OutRegs) (v : Half) : (r.writeResult v).result = v := rfl
@[simp] theorem OutRegs.writeResult_hasReading (r : OutRegs) (v : Half) : (r.writeResult v).hasReading = r.hasReading := rfl
@[simp] theorem OutRegs.writeResult_valid (r : OutRegs) (v : Half) : (r.writeResult v).valid = r.valid := rfl
@[simp] theorem OutRegs.writeResult_sensorClass (r : OutRegs) (v : Half) :
    (r.writeResult v).sensorClass = r.sensorClass := rfl
@[simp] theorem OutRegs.writeResult_subproto (r : OutRegs) (v : Half) : (r.writeResult v).subproto = r.subproto := rfl
@[simp] theorem OutRegs.writeResult_familyId (r : OutRegs) (v : Half) : (r.writeResult v).familyId = r.familyId := rfl
@[simp] theorem OutRegs.writeResult_temp (r : OutRegs) (v : Half) : (r.writeResult v).temp = r.temp := rfl
@[simp] theorem OutRegs.writeResult_tempNeg (r : OutRegs) (v : Half) : (r.writeResult v).tempNeg = r.tempNeg := rfl
@[simp] theorem OutRegs.writeResult_hasTemp (r : OutRegs) (v : Half) : (r.writeResult v).hasTemp = r.hasTemp := rfl
@[simp] theorem OutRegs.writeResult_hum (r : OutRegs) (v : Half) : (r.writeResult v).hum = r.hum := rfl
@[simp] theorem OutRegs.writeResult_hasHum (r : OutRegs) (v : Half) : (r.writeResult v).hasHum = r.hasHum := rfl
@[simp] theorem OutRegs.writeResult_battLow (r : OutRegs) (v : Half) : (r.writeResult v).battLow = r.battLow := rfl
@[simp] theorem OutRegs.writeResult_hasBatt (r : OutRegs) (v : Half) : (r.writeResult v).hasBatt = r.hasBatt := rfl
@[simp] theorem OutRegs.writeResult_channel (r : OutRegs) (v : Half) : (r.writeResult v).channel = r.channel := rfl
@[simp] theorem OutRegs.writeResult_hasChannel (r : OutRegs) (v : Half) : (r.writeResult v).hasChannel = r.hasChannel := rfl
@[simp] theorem OutRegs.writeResult_rolling (r : OutRegs) (v : Half) : (r.writeResult v).rolling = r.rolling := rfl
@[simp] theorem OutRegs.writeResult_sumCalc (r : OutRegs) (v : Half) : (r.writeResult v).sumCalc = r.sumCalc := rfl
@[simp] theorem OutRegs.writeResult_sumTx (r : OutRegs) (v : Half) : (r.writeResult v).sumTx = r.sumTx := rfl
@[simp] theorem OutRegs.writeResult_crcCalc (r : OutRegs) (v : Half) : (r.writeResult v).crcCalc = r.crcCalc := rfl
@[simp] theorem OutRegs.writeResult_crcTx (r : OutRegs) (v : Half) : (r.writeResult v).crcTx = r.crcTx := rfl
@[simp] theorem OutRegs.writeResult_crcPresent (r : OutRegs) (v : Half) : (r.writeResult v).crcPresent = r.crcPresent := rfl
@[simp] theorem OutRegs.writeResult_crcMatch (r : OutRegs) (v : Half) : (r.writeResult v).crcMatch = r.crcMatch := rfl

/-! ### `writeHeader` -/

@[simp] theorem OutRegs.writeHeader_status (r : OutRegs) : (r.writeHeader).status = r.status := rfl
@[simp] theorem OutRegs.writeHeader_result (r : OutRegs) : (r.writeHeader).result = r.result := rfl
@[simp] theorem OutRegs.writeHeader_hasReading (r : OutRegs) : (r.writeHeader).hasReading = true := rfl
@[simp] theorem OutRegs.writeHeader_valid (r : OutRegs) : (r.writeHeader).valid = r.valid := rfl
@[simp] theorem OutRegs.writeHeader_sensorClass (r : OutRegs) : (r.writeHeader).sensorClass = 1 := rfl
@[simp] theorem OutRegs.writeHeader_subproto (r : OutRegs) : (r.writeHeader).subproto = r.subproto := rfl
@[simp] theorem OutRegs.writeHeader_familyId (r : OutRegs) : (r.writeHeader).familyId = r.familyId := rfl
@[simp] theorem OutRegs.writeHeader_temp (r : OutRegs) : (r.writeHeader).temp = r.temp := rfl
@[simp] theorem OutRegs.writeHeader_tempNeg (r : OutRegs) : (r.writeHeader).tempNeg = r.tempNeg := rfl
@[simp] theorem OutRegs.writeHeader_hasTemp (r : OutRegs) : (r.writeHeader).hasTemp = r.hasTemp := rfl
@[simp] theorem OutRegs.writeHeader_hum (r : OutRegs) : (r.writeHeader).hum = r.hum := rfl
@[simp] theorem OutRegs.writeHeader_hasHum (r : OutRegs) : (r.writeHeader).hasHum = r.hasHum := rfl
@[simp] theorem OutRegs.writeHeader_battLow (r : OutRegs) : (r.writeHeader).battLow = r.battLow := rfl
@[simp] theorem OutRegs.writeHeader_hasBatt (r : OutRegs) : (r.writeHeader).hasBatt = r.hasBatt := rfl
@[simp] theorem OutRegs.writeHeader_channel (r : OutRegs) : (r.writeHeader).channel = r.channel := rfl
@[simp] theorem OutRegs.writeHeader_hasChannel (r : OutRegs) : (r.writeHeader).hasChannel = r.hasChannel := rfl
@[simp] theorem OutRegs.writeHeader_rolling (r : OutRegs) : (r.writeHeader).rolling = r.rolling := rfl
@[simp] theorem OutRegs.writeHeader_sumCalc (r : OutRegs) : (r.writeHeader).sumCalc = r.sumCalc := rfl
@[simp] theorem OutRegs.writeHeader_sumTx (r : OutRegs) : (r.writeHeader).sumTx = r.sumTx := rfl
@[simp] theorem OutRegs.writeHeader_crcCalc (r : OutRegs) : (r.writeHeader).crcCalc = r.crcCalc := rfl
@[simp] theorem OutRegs.writeHeader_crcTx (r : OutRegs) : (r.writeHeader).crcTx = r.crcTx := rfl
@[simp] theorem OutRegs.writeHeader_crcPresent (r : OutRegs) : (r.writeHeader).crcPresent = r.crcPresent := rfl
@[simp] theorem OutRegs.writeHeader_crcMatch (r : OutRegs) : (r.writeHeader).crcMatch = r.crcMatch := rfl

/-! ### `writeFamilyId` -/

@[simp] theorem OutRegs.writeFamilyId_status (r : OutRegs) (id : Half) : (r.writeFamilyId id).status = r.status := rfl
@[simp] theorem OutRegs.writeFamilyId_result (r : OutRegs) (id : Half) : (r.writeFamilyId id).result = r.result := rfl
@[simp] theorem OutRegs.writeFamilyId_hasReading (r : OutRegs) (id : Half) :
    (r.writeFamilyId id).hasReading = r.hasReading := rfl
@[simp] theorem OutRegs.writeFamilyId_valid (r : OutRegs) (id : Half) : (r.writeFamilyId id).valid = r.valid := rfl
@[simp] theorem OutRegs.writeFamilyId_sensorClass (r : OutRegs) (id : Half) :
    (r.writeFamilyId id).sensorClass = r.sensorClass := rfl
@[simp] theorem OutRegs.writeFamilyId_subproto (r : OutRegs) (id : Half) : (r.writeFamilyId id).subproto = r.subproto := rfl
@[simp] theorem OutRegs.writeFamilyId_familyId (r : OutRegs) (id : Half) : (r.writeFamilyId id).familyId = id := rfl
@[simp] theorem OutRegs.writeFamilyId_temp (r : OutRegs) (id : Half) : (r.writeFamilyId id).temp = r.temp := rfl
@[simp] theorem OutRegs.writeFamilyId_tempNeg (r : OutRegs) (id : Half) : (r.writeFamilyId id).tempNeg = r.tempNeg := rfl
@[simp] theorem OutRegs.writeFamilyId_hasTemp (r : OutRegs) (id : Half) : (r.writeFamilyId id).hasTemp = r.hasTemp := rfl
@[simp] theorem OutRegs.writeFamilyId_hum (r : OutRegs) (id : Half) : (r.writeFamilyId id).hum = r.hum := rfl
@[simp] theorem OutRegs.writeFamilyId_hasHum (r : OutRegs) (id : Half) : (r.writeFamilyId id).hasHum = r.hasHum := rfl
@[simp] theorem OutRegs.writeFamilyId_battLow (r : OutRegs) (id : Half) : (r.writeFamilyId id).battLow = r.battLow := rfl
@[simp] theorem OutRegs.writeFamilyId_hasBatt (r : OutRegs) (id : Half) : (r.writeFamilyId id).hasBatt = r.hasBatt := rfl
@[simp] theorem OutRegs.writeFamilyId_channel (r : OutRegs) (id : Half) : (r.writeFamilyId id).channel = r.channel := rfl
@[simp] theorem OutRegs.writeFamilyId_hasChannel (r : OutRegs) (id : Half) :
    (r.writeFamilyId id).hasChannel = r.hasChannel := rfl
@[simp] theorem OutRegs.writeFamilyId_rolling (r : OutRegs) (id : Half) : (r.writeFamilyId id).rolling = r.rolling := rfl
@[simp] theorem OutRegs.writeFamilyId_sumCalc (r : OutRegs) (id : Half) : (r.writeFamilyId id).sumCalc = r.sumCalc := rfl
@[simp] theorem OutRegs.writeFamilyId_sumTx (r : OutRegs) (id : Half) : (r.writeFamilyId id).sumTx = r.sumTx := rfl
@[simp] theorem OutRegs.writeFamilyId_crcCalc (r : OutRegs) (id : Half) : (r.writeFamilyId id).crcCalc = r.crcCalc := rfl
@[simp] theorem OutRegs.writeFamilyId_crcTx (r : OutRegs) (id : Half) : (r.writeFamilyId id).crcTx = r.crcTx := rfl
@[simp] theorem OutRegs.writeFamilyId_crcPresent (r : OutRegs) (id : Half) :
    (r.writeFamilyId id).crcPresent = r.crcPresent := rfl
@[simp] theorem OutRegs.writeFamilyId_crcMatch (r : OutRegs) (id : Half) : (r.writeFamilyId id).crcMatch = r.crcMatch := rfl

/-! ### `writeSubproto` -/

@[simp] theorem OutRegs.writeSubproto_status (r : OutRegs) (v : BitVec 2) : (r.writeSubproto v).status = r.status := rfl
@[simp] theorem OutRegs.writeSubproto_result (r : OutRegs) (v : BitVec 2) : (r.writeSubproto v).result = r.result := rfl
@[simp] theorem OutRegs.writeSubproto_hasReading (r : OutRegs) (v : BitVec 2) :
    (r.writeSubproto v).hasReading = r.hasReading := rfl
@[simp] theorem OutRegs.writeSubproto_valid (r : OutRegs) (v : BitVec 2) : (r.writeSubproto v).valid = r.valid := rfl
@[simp] theorem OutRegs.writeSubproto_sensorClass (r : OutRegs) (v : BitVec 2) :
    (r.writeSubproto v).sensorClass = r.sensorClass := rfl
@[simp] theorem OutRegs.writeSubproto_subproto (r : OutRegs) (v : BitVec 2) : (r.writeSubproto v).subproto = v := rfl
@[simp] theorem OutRegs.writeSubproto_familyId (r : OutRegs) (v : BitVec 2) :
    (r.writeSubproto v).familyId = r.familyId := rfl
@[simp] theorem OutRegs.writeSubproto_temp (r : OutRegs) (v : BitVec 2) : (r.writeSubproto v).temp = r.temp := rfl
@[simp] theorem OutRegs.writeSubproto_tempNeg (r : OutRegs) (v : BitVec 2) : (r.writeSubproto v).tempNeg = r.tempNeg := rfl
@[simp] theorem OutRegs.writeSubproto_hasTemp (r : OutRegs) (v : BitVec 2) : (r.writeSubproto v).hasTemp = r.hasTemp := rfl
@[simp] theorem OutRegs.writeSubproto_hum (r : OutRegs) (v : BitVec 2) : (r.writeSubproto v).hum = r.hum := rfl
@[simp] theorem OutRegs.writeSubproto_hasHum (r : OutRegs) (v : BitVec 2) : (r.writeSubproto v).hasHum = r.hasHum := rfl
@[simp] theorem OutRegs.writeSubproto_battLow (r : OutRegs) (v : BitVec 2) : (r.writeSubproto v).battLow = r.battLow := rfl
@[simp] theorem OutRegs.writeSubproto_hasBatt (r : OutRegs) (v : BitVec 2) : (r.writeSubproto v).hasBatt = r.hasBatt := rfl
@[simp] theorem OutRegs.writeSubproto_channel (r : OutRegs) (v : BitVec 2) : (r.writeSubproto v).channel = r.channel := rfl
@[simp] theorem OutRegs.writeSubproto_hasChannel (r : OutRegs) (v : BitVec 2) :
    (r.writeSubproto v).hasChannel = r.hasChannel := rfl
@[simp] theorem OutRegs.writeSubproto_rolling (r : OutRegs) (v : BitVec 2) : (r.writeSubproto v).rolling = r.rolling := rfl
@[simp] theorem OutRegs.writeSubproto_sumCalc (r : OutRegs) (v : BitVec 2) : (r.writeSubproto v).sumCalc = r.sumCalc := rfl
@[simp] theorem OutRegs.writeSubproto_sumTx (r : OutRegs) (v : BitVec 2) : (r.writeSubproto v).sumTx = r.sumTx := rfl
@[simp] theorem OutRegs.writeSubproto_crcCalc (r : OutRegs) (v : BitVec 2) : (r.writeSubproto v).crcCalc = r.crcCalc := rfl
@[simp] theorem OutRegs.writeSubproto_crcTx (r : OutRegs) (v : BitVec 2) : (r.writeSubproto v).crcTx = r.crcTx := rfl
@[simp] theorem OutRegs.writeSubproto_crcPresent (r : OutRegs) (v : BitVec 2) :
    (r.writeSubproto v).crcPresent = r.crcPresent := rfl
@[simp] theorem OutRegs.writeSubproto_crcMatch (r : OutRegs) (v : BitVec 2) :
    (r.writeSubproto v).crcMatch = r.crcMatch := rfl

/-! ### `writeSums` -/

@[simp] theorem OutRegs.writeSums_status (r : OutRegs) (computed : Half) (tx : Byte) :
    (r.writeSums computed tx).status = r.status := rfl
@[simp] theorem OutRegs.writeSums_result (r : OutRegs) (computed : Half) (tx : Byte) :
    (r.writeSums computed tx).result = r.result := rfl
@[simp] theorem OutRegs.writeSums_hasReading (r : OutRegs) (computed : Half) (tx : Byte) :
    (r.writeSums computed tx).hasReading = r.hasReading := rfl
@[simp] theorem OutRegs.writeSums_valid (r : OutRegs) (computed : Half) (tx : Byte) :
    (r.writeSums computed tx).valid = r.valid := rfl
@[simp] theorem OutRegs.writeSums_sensorClass (r : OutRegs) (computed : Half) (tx : Byte) :
    (r.writeSums computed tx).sensorClass = r.sensorClass := rfl
@[simp] theorem OutRegs.writeSums_subproto (r : OutRegs) (computed : Half) (tx : Byte) :
    (r.writeSums computed tx).subproto = r.subproto := rfl
@[simp] theorem OutRegs.writeSums_familyId (r : OutRegs) (computed : Half) (tx : Byte) :
    (r.writeSums computed tx).familyId = r.familyId := rfl
@[simp] theorem OutRegs.writeSums_temp (r : OutRegs) (computed : Half) (tx : Byte) :
    (r.writeSums computed tx).temp = r.temp := rfl
@[simp] theorem OutRegs.writeSums_tempNeg (r : OutRegs) (computed : Half) (tx : Byte) :
    (r.writeSums computed tx).tempNeg = r.tempNeg := rfl
@[simp] theorem OutRegs.writeSums_hasTemp (r : OutRegs) (computed : Half) (tx : Byte) :
    (r.writeSums computed tx).hasTemp = r.hasTemp := rfl
@[simp] theorem OutRegs.writeSums_hum (r : OutRegs) (computed : Half) (tx : Byte) :
    (r.writeSums computed tx).hum = r.hum := rfl
@[simp] theorem OutRegs.writeSums_hasHum (r : OutRegs) (computed : Half) (tx : Byte) :
    (r.writeSums computed tx).hasHum = r.hasHum := rfl
@[simp] theorem OutRegs.writeSums_battLow (r : OutRegs) (computed : Half) (tx : Byte) :
    (r.writeSums computed tx).battLow = r.battLow := rfl
@[simp] theorem OutRegs.writeSums_hasBatt (r : OutRegs) (computed : Half) (tx : Byte) :
    (r.writeSums computed tx).hasBatt = r.hasBatt := rfl
@[simp] theorem OutRegs.writeSums_channel (r : OutRegs) (computed : Half) (tx : Byte) :
    (r.writeSums computed tx).channel = r.channel := rfl
@[simp] theorem OutRegs.writeSums_hasChannel (r : OutRegs) (computed : Half) (tx : Byte) :
    (r.writeSums computed tx).hasChannel = r.hasChannel := rfl
@[simp] theorem OutRegs.writeSums_rolling (r : OutRegs) (computed : Half) (tx : Byte) :
    (r.writeSums computed tx).rolling = r.rolling := rfl
@[simp] theorem OutRegs.writeSums_sumCalc (r : OutRegs) (computed : Half) (tx : Byte) :
    (r.writeSums computed tx).sumCalc = computed := rfl
@[simp] theorem OutRegs.writeSums_sumTx (r : OutRegs) (computed : Half) (tx : Byte) :
    (r.writeSums computed tx).sumTx = tx := rfl
@[simp] theorem OutRegs.writeSums_crcCalc (r : OutRegs) (computed : Half) (tx : Byte) :
    (r.writeSums computed tx).crcCalc = r.crcCalc := rfl
@[simp] theorem OutRegs.writeSums_crcTx (r : OutRegs) (computed : Half) (tx : Byte) :
    (r.writeSums computed tx).crcTx = r.crcTx := rfl
@[simp] theorem OutRegs.writeSums_crcPresent (r : OutRegs) (computed : Half) (tx : Byte) :
    (r.writeSums computed tx).crcPresent = r.crcPresent := rfl
@[simp] theorem OutRegs.writeSums_crcMatch (r : OutRegs) (computed : Half) (tx : Byte) :
    (r.writeSums computed tx).crcMatch = r.crcMatch := rfl

/-! ### `writeCrcs` -/

@[simp] theorem OutRegs.writeCrcs_status (r : OutRegs) (computed tx : Byte) :
    (r.writeCrcs computed tx).status = r.status := rfl
@[simp] theorem OutRegs.writeCrcs_result (r : OutRegs) (computed tx : Byte) :
    (r.writeCrcs computed tx).result = r.result := rfl
@[simp] theorem OutRegs.writeCrcs_hasReading (r : OutRegs) (computed tx : Byte) :
    (r.writeCrcs computed tx).hasReading = r.hasReading := rfl
@[simp] theorem OutRegs.writeCrcs_valid (r : OutRegs) (computed tx : Byte) : (r.writeCrcs computed tx).valid = r.valid := rfl
@[simp] theorem OutRegs.writeCrcs_sensorClass (r : OutRegs) (computed tx : Byte) :
    (r.writeCrcs computed tx).sensorClass = r.sensorClass := rfl
@[simp] theorem OutRegs.writeCrcs_subproto (r : OutRegs) (computed tx : Byte) :
    (r.writeCrcs computed tx).subproto = r.subproto := rfl
@[simp] theorem OutRegs.writeCrcs_familyId (r : OutRegs) (computed tx : Byte) :
    (r.writeCrcs computed tx).familyId = r.familyId := rfl
@[simp] theorem OutRegs.writeCrcs_temp (r : OutRegs) (computed tx : Byte) : (r.writeCrcs computed tx).temp = r.temp := rfl
@[simp] theorem OutRegs.writeCrcs_tempNeg (r : OutRegs) (computed tx : Byte) :
    (r.writeCrcs computed tx).tempNeg = r.tempNeg := rfl
@[simp] theorem OutRegs.writeCrcs_hasTemp (r : OutRegs) (computed tx : Byte) :
    (r.writeCrcs computed tx).hasTemp = r.hasTemp := rfl
@[simp] theorem OutRegs.writeCrcs_hum (r : OutRegs) (computed tx : Byte) : (r.writeCrcs computed tx).hum = r.hum := rfl
@[simp] theorem OutRegs.writeCrcs_hasHum (r : OutRegs) (computed tx : Byte) :
    (r.writeCrcs computed tx).hasHum = r.hasHum := rfl
@[simp] theorem OutRegs.writeCrcs_battLow (r : OutRegs) (computed tx : Byte) :
    (r.writeCrcs computed tx).battLow = r.battLow := rfl
@[simp] theorem OutRegs.writeCrcs_hasBatt (r : OutRegs) (computed tx : Byte) :
    (r.writeCrcs computed tx).hasBatt = r.hasBatt := rfl
@[simp] theorem OutRegs.writeCrcs_channel (r : OutRegs) (computed tx : Byte) :
    (r.writeCrcs computed tx).channel = r.channel := rfl
@[simp] theorem OutRegs.writeCrcs_hasChannel (r : OutRegs) (computed tx : Byte) :
    (r.writeCrcs computed tx).hasChannel = r.hasChannel := rfl
@[simp] theorem OutRegs.writeCrcs_rolling (r : OutRegs) (computed tx : Byte) :
    (r.writeCrcs computed tx).rolling = r.rolling := rfl
@[simp] theorem OutRegs.writeCrcs_sumCalc (r : OutRegs) (computed tx : Byte) :
    (r.writeCrcs computed tx).sumCalc = r.sumCalc := rfl
@[simp] theorem OutRegs.writeCrcs_sumTx (r : OutRegs) (computed tx : Byte) : (r.writeCrcs computed tx).sumTx = r.sumTx := rfl
@[simp] theorem OutRegs.writeCrcs_crcCalc (r : OutRegs) (computed tx : Byte) :
    (r.writeCrcs computed tx).crcCalc = computed := rfl
@[simp] theorem OutRegs.writeCrcs_crcTx (r : OutRegs) (computed tx : Byte) : (r.writeCrcs computed tx).crcTx = tx := rfl
@[simp] theorem OutRegs.writeCrcs_crcPresent (r : OutRegs) (computed tx : Byte) :
    (r.writeCrcs computed tx).crcPresent = true := rfl
@[simp] theorem OutRegs.writeCrcs_crcMatch (r : OutRegs) (computed tx : Byte) :
    (r.writeCrcs computed tx).crcMatch = (computed == tx) := rfl

/-! ### `writeRolling` -/

@[simp] theorem OutRegs.writeRolling_status (r : OutRegs) (v : Byte) : (r.writeRolling v).status = r.status := rfl
@[simp] theorem OutRegs.writeRolling_result (r : OutRegs) (v : Byte) : (r.writeRolling v).result = r.result := rfl
@[simp] theorem OutRegs.writeRolling_hasReading (r : OutRegs) (v : Byte) :
    (r.writeRolling v).hasReading = r.hasReading := rfl
@[simp] theorem OutRegs.writeRolling_valid (r : OutRegs) (v : Byte) : (r.writeRolling v).valid = r.valid := rfl
@[simp] theorem OutRegs.writeRolling_sensorClass (r : OutRegs) (v : Byte) :
    (r.writeRolling v).sensorClass = r.sensorClass := rfl
@[simp] theorem OutRegs.writeRolling_subproto (r : OutRegs) (v : Byte) : (r.writeRolling v).subproto = r.subproto := rfl
@[simp] theorem OutRegs.writeRolling_familyId (r : OutRegs) (v : Byte) : (r.writeRolling v).familyId = r.familyId := rfl
@[simp] theorem OutRegs.writeRolling_temp (r : OutRegs) (v : Byte) : (r.writeRolling v).temp = r.temp := rfl
@[simp] theorem OutRegs.writeRolling_tempNeg (r : OutRegs) (v : Byte) : (r.writeRolling v).tempNeg = r.tempNeg := rfl
@[simp] theorem OutRegs.writeRolling_hasTemp (r : OutRegs) (v : Byte) : (r.writeRolling v).hasTemp = r.hasTemp := rfl
@[simp] theorem OutRegs.writeRolling_hum (r : OutRegs) (v : Byte) : (r.writeRolling v).hum = r.hum := rfl
@[simp] theorem OutRegs.writeRolling_hasHum (r : OutRegs) (v : Byte) : (r.writeRolling v).hasHum = r.hasHum := rfl
@[simp] theorem OutRegs.writeRolling_battLow (r : OutRegs) (v : Byte) : (r.writeRolling v).battLow = r.battLow := rfl
@[simp] theorem OutRegs.writeRolling_hasBatt (r : OutRegs) (v : Byte) : (r.writeRolling v).hasBatt = r.hasBatt := rfl
@[simp] theorem OutRegs.writeRolling_channel (r : OutRegs) (v : Byte) : (r.writeRolling v).channel = r.channel := rfl
@[simp] theorem OutRegs.writeRolling_hasChannel (r : OutRegs) (v : Byte) :
    (r.writeRolling v).hasChannel = r.hasChannel := rfl
@[simp] theorem OutRegs.writeRolling_rolling (r : OutRegs) (v : Byte) : (r.writeRolling v).rolling = v := rfl
@[simp] theorem OutRegs.writeRolling_sumCalc (r : OutRegs) (v : Byte) : (r.writeRolling v).sumCalc = r.sumCalc := rfl
@[simp] theorem OutRegs.writeRolling_sumTx (r : OutRegs) (v : Byte) : (r.writeRolling v).sumTx = r.sumTx := rfl
@[simp] theorem OutRegs.writeRolling_crcCalc (r : OutRegs) (v : Byte) : (r.writeRolling v).crcCalc = r.crcCalc := rfl
@[simp] theorem OutRegs.writeRolling_crcTx (r : OutRegs) (v : Byte) : (r.writeRolling v).crcTx = r.crcTx := rfl
@[simp] theorem OutRegs.writeRolling_crcPresent (r : OutRegs) (v : Byte) :
    (r.writeRolling v).crcPresent = r.crcPresent := rfl
@[simp] theorem OutRegs.writeRolling_crcMatch (r : OutRegs) (v : Byte) : (r.writeRolling v).crcMatch = r.crcMatch := rfl

/-! ### `commitCommon` -/

@[simp] theorem OutRegs.commitCommon_status (r : OutRegs) (temp : Half) (neg battLow : Bool) (channel : Nibble) :
    (r.commitCommon temp neg battLow channel).status = r.status := rfl
@[simp] theorem OutRegs.commitCommon_result (r : OutRegs) (temp : Half) (neg battLow : Bool) (channel : Nibble) :
    (r.commitCommon temp neg battLow channel).result = r.result := rfl
@[simp] theorem OutRegs.commitCommon_hasReading (r : OutRegs) (temp : Half) (neg battLow : Bool) (channel : Nibble) :
    (r.commitCommon temp neg battLow channel).hasReading = r.hasReading := rfl
@[simp] theorem OutRegs.commitCommon_valid (r : OutRegs) (temp : Half) (neg battLow : Bool) (channel : Nibble) :
    (r.commitCommon temp neg battLow channel).valid = true := rfl
@[simp] theorem OutRegs.commitCommon_sensorClass (r : OutRegs) (temp : Half) (neg battLow : Bool) (channel : Nibble) :
    (r.commitCommon temp neg battLow channel).sensorClass = r.sensorClass := rfl
@[simp] theorem OutRegs.commitCommon_subproto (r : OutRegs) (temp : Half) (neg battLow : Bool) (channel : Nibble) :
    (r.commitCommon temp neg battLow channel).subproto = r.subproto := rfl
@[simp] theorem OutRegs.commitCommon_familyId (r : OutRegs) (temp : Half) (neg battLow : Bool) (channel : Nibble) :
    (r.commitCommon temp neg battLow channel).familyId = r.familyId := rfl
@[simp] theorem OutRegs.commitCommon_temp (r : OutRegs) (temp : Half) (neg battLow : Bool) (channel : Nibble) :
    (r.commitCommon temp neg battLow channel).temp = temp := rfl
@[simp] theorem OutRegs.commitCommon_tempNeg (r : OutRegs) (temp : Half) (neg battLow : Bool) (channel : Nibble) :
    (r.commitCommon temp neg battLow channel).tempNeg = neg := rfl
@[simp] theorem OutRegs.commitCommon_hasTemp (r : OutRegs) (temp : Half) (neg battLow : Bool) (channel : Nibble) :
    (r.commitCommon temp neg battLow channel).hasTemp = true := rfl
@[simp] theorem OutRegs.commitCommon_hum (r : OutRegs) (temp : Half) (neg battLow : Bool) (channel : Nibble) :
    (r.commitCommon temp neg battLow channel).hum = r.hum := rfl
@[simp] theorem OutRegs.commitCommon_hasHum (r : OutRegs) (temp : Half) (neg battLow : Bool) (channel : Nibble) :
    (r.commitCommon temp neg battLow channel).hasHum = r.hasHum := rfl
@[simp] theorem OutRegs.commitCommon_battLow (r : OutRegs) (temp : Half) (neg battLow : Bool) (channel : Nibble) :
    (r.commitCommon temp neg battLow channel).battLow = battLow := rfl
@[simp] theorem OutRegs.commitCommon_hasBatt (r : OutRegs) (temp : Half) (neg battLow : Bool) (channel : Nibble) :
    (r.commitCommon temp neg battLow channel).hasBatt = true := rfl
@[simp] theorem OutRegs.commitCommon_channel (r : OutRegs) (temp : Half) (neg battLow : Bool) (channel : Nibble) :
    (r.commitCommon temp neg battLow channel).channel = channel := rfl
@[simp] theorem OutRegs.commitCommon_hasChannel (r : OutRegs) (temp : Half) (neg battLow : Bool) (channel : Nibble) :
    (r.commitCommon temp neg battLow channel).hasChannel = true := rfl
@[simp] theorem OutRegs.commitCommon_rolling (r : OutRegs) (temp : Half) (neg battLow : Bool) (channel : Nibble) :
    (r.commitCommon temp neg battLow channel).rolling = r.rolling := rfl
@[simp] theorem OutRegs.commitCommon_sumCalc (r : OutRegs) (temp : Half) (neg battLow : Bool) (channel : Nibble) :
    (r.commitCommon temp neg battLow channel).sumCalc = r.sumCalc := rfl
@[simp] theorem OutRegs.commitCommon_sumTx (r : OutRegs) (temp : Half) (neg battLow : Bool) (channel : Nibble) :
    (r.commitCommon temp neg battLow channel).sumTx = r.sumTx := rfl
@[simp] theorem OutRegs.commitCommon_crcCalc (r : OutRegs) (temp : Half) (neg battLow : Bool) (channel : Nibble) :
    (r.commitCommon temp neg battLow channel).crcCalc = r.crcCalc := rfl
@[simp] theorem OutRegs.commitCommon_crcTx (r : OutRegs) (temp : Half) (neg battLow : Bool) (channel : Nibble) :
    (r.commitCommon temp neg battLow channel).crcTx = r.crcTx := rfl
@[simp] theorem OutRegs.commitCommon_crcPresent (r : OutRegs) (temp : Half) (neg battLow : Bool) (channel : Nibble) :
    (r.commitCommon temp neg battLow channel).crcPresent = r.crcPresent := rfl
@[simp] theorem OutRegs.commitCommon_crcMatch (r : OutRegs) (temp : Half) (neg battLow : Bool) (channel : Nibble) :
    (r.commitCommon temp neg battLow channel).crcMatch = r.crcMatch := rfl

/-! ### `commitHum` -/

@[simp] theorem OutRegs.commitHum_status (r : OutRegs) (v : Half) : (r.commitHum v).status = r.status := rfl
@[simp] theorem OutRegs.commitHum_result (r : OutRegs) (v : Half) : (r.commitHum v).result = r.result := rfl
@[simp] theorem OutRegs.commitHum_hasReading (r : OutRegs) (v : Half) : (r.commitHum v).hasReading = r.hasReading := rfl
@[simp] theorem OutRegs.commitHum_valid (r : OutRegs) (v : Half) : (r.commitHum v).valid = r.valid := rfl
@[simp] theorem OutRegs.commitHum_sensorClass (r : OutRegs) (v : Half) : (r.commitHum v).sensorClass = r.sensorClass := rfl
@[simp] theorem OutRegs.commitHum_subproto (r : OutRegs) (v : Half) : (r.commitHum v).subproto = r.subproto := rfl
@[simp] theorem OutRegs.commitHum_familyId (r : OutRegs) (v : Half) : (r.commitHum v).familyId = r.familyId := rfl
@[simp] theorem OutRegs.commitHum_temp (r : OutRegs) (v : Half) : (r.commitHum v).temp = r.temp := rfl
@[simp] theorem OutRegs.commitHum_tempNeg (r : OutRegs) (v : Half) : (r.commitHum v).tempNeg = r.tempNeg := rfl
@[simp] theorem OutRegs.commitHum_hasTemp (r : OutRegs) (v : Half) : (r.commitHum v).hasTemp = r.hasTemp := rfl
@[simp] theorem OutRegs.commitHum_hum (r : OutRegs) (v : Half) : (r.commitHum v).hum = v := rfl
@[simp] theorem OutRegs.commitHum_hasHum (r : OutRegs) (v : Half) : (r.commitHum v).hasHum = true := rfl
@[simp] theorem OutRegs.commitHum_battLow (r : OutRegs) (v : Half) : (r.commitHum v).battLow = r.battLow := rfl
@[simp] theorem OutRegs.commitHum_hasBatt (r : OutRegs) (v : Half) : (r.commitHum v).hasBatt = r.hasBatt := rfl
@[simp] theorem OutRegs.commitHum_channel (r : OutRegs) (v : Half) : (r.commitHum v).channel = r.channel := rfl
@[simp] theorem OutRegs.commitHum_hasChannel (r : OutRegs) (v : Half) : (r.commitHum v).hasChannel = r.hasChannel := rfl
@[simp] theorem OutRegs.commitHum_rolling (r : OutRegs) (v : Half) : (r.commitHum v).rolling = r.rolling := rfl
@[simp] theorem OutRegs.commitHum_sumCalc (r : OutRegs) (v : Half) : (r.commitHum v).sumCalc = r.sumCalc := rfl
@[simp] theorem OutRegs.commitHum_sumTx (r : OutRegs) (v : Half) : (r.commitHum v).sumTx = r.sumTx := rfl
@[simp] theorem OutRegs.commitHum_crcCalc (r : OutRegs) (v : Half) : (r.commitHum v).crcCalc = r.crcCalc := rfl
@[simp] theorem OutRegs.commitHum_crcTx (r : OutRegs) (v : Half) : (r.commitHum v).crcTx = r.crcTx := rfl
@[simp] theorem OutRegs.commitHum_crcPresent (r : OutRegs) (v : Half) : (r.commitHum v).crcPresent = r.crcPresent := rfl
@[simp] theorem OutRegs.commitHum_crcMatch (r : OutRegs) (v : Half) : (r.commitHum v).crcMatch = r.crcMatch := rfl

end Sys2Proof.Machine
end

