-- ==== Sys2Proof/Laws/Outcome.lean ====
section
/-! SUPPORT. What the shared operations can do: reading characters, ending an operation, and one step. -/

namespace Sys2Proof.Machine

/-! ### Stages -/

@[simp] theorem Stage.ok_bind {α β : Type} (a : α) (f : α → Stage β) : ((Except.ok a : Stage α) >>= f) = f a := rfl

@[simp] theorem Stage.error_bind {α β : Type} (e : Halt) (f : α → Stage β) :
    ((Except.error e : Stage α) >>= f) = .error e := rfl

@[simp] theorem failWith_bind {α β : Type} (code : StatusCode) (r : OutRegs) (f : α → Stage β) :
    ((failWith code r : Stage α) >>= f) = failWith code r := rfl

@[simp] theorem orInvalidDigit_some {α : Type} (r : OutRegs) (v : α) : orInvalidDigit r (some v) = .ok v := rfl

@[simp] theorem orInvalidDigit_none {α : Type} (r : OutRegs) :
    (orInvalidDigit r none : Stage α) = failWith .invalidDigit r := rfl

/-- A codec call either gives its value or ends the operation with INVALID_DIGIT. -/
theorem orInvalidDigit_cases {α : Type} (r : OutRegs) (o : Option α) :
    (o = none ∧ orInvalidDigit r o = failWith .invalidDigit r) ∨ ∃ v, o = some v ∧ orInvalidDigit r o = .ok v := by
  cases o with
  | none => exact .inl ⟨rfl, rfl⟩
  | some v => exact .inr ⟨v, rfl, rfl⟩

/-! ### Characters -/

/-- A position below `MSG_MAX` is read. -/
theorem Snapshot.char_of_lt {x : Snapshot} {i : Nat} (h : i < x.cfg.msgMax) : x.char i = .ok (x.ports.msg.read i) :=
  if_pos h

/-- Positions below `MSG_MAX` are read, in order. -/
theorem Snapshot.chars_of_lt {x : Snapshot} {is : List Nat} (h : ∀ i ∈ is, i < x.cfg.msgMax) :
    x.chars is = .ok (is.map x.ports.msg.read) := by
  induction is with
  | nil => rfl
  | cons i is ih =>
    rw [Snapshot.chars, Snapshot.char_of_lt (h i (by simp)), ih fun j hj => h j (by simp [hj])]
    rfl

/-- A message that fits the buffer is read whole. -/
theorem Snapshot.message_of_le {x : Snapshot} (h : x.len ≤ x.cfg.msgMax) :
    x.message = .ok ((List.range x.len).map x.ports.msg.read) :=
  Snapshot.chars_of_lt fun _ hi => Nat.lt_of_lt_of_le (List.mem_range.mp hi) h

/-- Body positions below 20 are read, since `MSG_MAX >= 25` (R8). -/
theorem Snapshot.bodyChars_of_lt {x : Snapshot} (hmax : 25 ≤ x.cfg.msgMax) {is : List Nat} (h : ∀ i ∈ is, i < 20) :
    x.bodyChars is = .ok (is.map fun i => x.ports.msg.read (5 + i)) := by
  rw [Snapshot.bodyChars, Snapshot.chars_of_lt]
  · rw [List.map_map]
    rfl
  · intro j hj
    obtain ⟨i, hi, rfl⟩ := List.mem_map.mp hj
    have := h i hi
    simp only [bodyOffset]
    omega

/-- `MSG_LEN` is an 8-bit value. -/
theorem Snapshot.len_lt (x : Snapshot) : x.len < 256 := x.ports.msgLen.isLt

/-! ### The end of an operation -/

theorem runOperation_ok {op : Snapshot → OutRegs → Stage OutRegs} {s : State} {r : OutRegs}
    (h : op s.snapshot s.regs.clear = .ok r) : runOperation op s = .next (s.setRegs (r.setStatus .ok)) := by
  rw [runOperation, h, finish]

theorem runOperation_fail {op : Snapshot → OutRegs → Stage OutRegs} {s : State} {code : StatusCode} {r : OutRegs}
    (h : op s.snapshot s.regs.clear = failWith code r) : runOperation op s = .next (s.setRegs (r.setStatus code)) := by
  rw [runOperation, h, failWith, finish]

/-- An operation that answers a next state either passed all its stages or failed, and wrote the register file. -/
theorem runOperation_eq_next {op : Snapshot → OutRegs → Stage OutRegs} {s t : State} (h : runOperation op s = .next t) :
    (∃ r, op s.snapshot s.regs.clear = .ok r ∧ t = s.setRegs (r.setStatus .ok))
      ∨ ∃ code r, op s.snapshot s.regs.clear = failWith code r ∧ t = s.setRegs (r.setStatus code) := by
  rw [runOperation] at h
  cases hop : op s.snapshot s.regs.clear with
  | ok r =>
    rw [hop, finish] at h
    cases h
    exact .inl ⟨r, rfl, rfl⟩
  | error e =>
    rw [hop] at h
    cases e with
    | fail code r =>
      rw [finish] at h
      cases h
      exact .inr ⟨code, r, rfl, rfl⟩
    | fault f => cases h

/-! ### The meaning of each command as an operation -/

/-- The operation a command runs. -/
def operationOf : Instr → Snapshot → OutRegs → Stage OutRegs
  | .decode => opDecode
  | .digit => opDigit
  | .hex => opConvert hexValue
  | .bcd => opConvert bcdDecimal
  | .ident => opIdent
  | .validate => opValidate
  | .tsum => opTsum
  | .reserved7 => opReserved
  | .reservedHigh _ => opReserved

/-- Every command runs its operation. -/
theorem exec_eq_runOperation (i : Instr) (s : State) : exec i s = runOperation (operationOf i) s := by
  cases i <;> rfl

/-! ### One step -/

/-- What a step can do. -/
theorem step_cases (s : State) :
    (s.ports.reset = true ∧ step s = .next s.assertReset)
      ∨ (s.ports.reset = false ∧ step s = exec (decodeOp s.ports.op) s) := by
  cases h : s.ports.reset with
  | true => exact .inl ⟨rfl, by rw [step, h]; rfl⟩
  | false => exact .inr ⟨rfl, by rw [step, h]; rfl⟩

end Sys2Proof.Machine
end

