-- ==== Sys2Proof/Laws/Operations.lean ====
section
/-! SUPPORT. Every way each operation can end, with the register file it leaves: one lemma per stage and per operation, for the
provers to cite instead of unfolding. `MSG_MAX >= 25` (R8) is the one premise. -/

namespace Sys2Proof.Machine

variable {x : Snapshot}

/-! ### Codec -/

theorem opDigit_cases (hmax : 25 ≤ x.cfg.msgMax) (r : OutRegs) :
    (digitValue (x.ports.msg.read 0) = none ∧ opDigit x r = failWith .invalidDigit r)
      ∨ ∃ d, digitValue (x.ports.msg.read 0) = some d ∧ opDigit x r = .ok (r.writeResult (zext16 d.toNat)) := by
  unfold opDigit
  rw [Snapshot.char_of_lt (by omega), Stage.ok_bind]
  rcases orInvalidDigit_cases r (digitValue (x.ports.msg.read 0)) with ⟨hn, he⟩ | ⟨d, hs, he⟩
  · exact .inl ⟨hn, by rw [he, failWith_bind]⟩
  · exact .inr ⟨d, hs, by rw [he, Stage.ok_bind]⟩

theorem opConvert_cases (convert : List Byte → Option Nat) (hmax : 25 ≤ x.cfg.msgMax) (r : OutRegs) :
    (4 < x.len ∧ opConvert convert x r = failWith .malformedLength r)
      ∨ (x.len ≤ 4 ∧ convert ((List.range x.len).map x.ports.msg.read) = none
          ∧ opConvert convert x r = failWith .invalidDigit r)
      ∨ ∃ v, x.len ≤ 4 ∧ convert ((List.range x.len).map x.ports.msg.read) = some v
          ∧ opConvert convert x r = .ok (r.writeResult (zext16 v)) := by
  unfold opConvert
  by_cases hlen : codecMaxLen < x.len
  · exact .inl ⟨hlen, if_pos hlen⟩
  · have hle : x.len ≤ 4 := Nat.le_of_not_lt hlen
    rw [if_neg hlen, Snapshot.message_of_le (by omega), Stage.ok_bind]
    rcases orInvalidDigit_cases r (convert ((List.range x.len).map x.ports.msg.read)) with ⟨hn, he⟩ | ⟨v, hs, he⟩
    · exact .inr (.inl ⟨hle, hn, by rw [he, failWith_bind]⟩)
    · exact .inr (.inr ⟨v, hle, hs, by rw [he, Stage.ok_bind]⟩)

/-! ### The selector -/

/-- The ID string of R122. -/
def Snapshot.idString (x : Snapshot) : List Byte := subIdPositions.map fun i => x.ports.msg.read (5 + i)

/-- The four ways stages HEADER to SELECT can end, and their success. -/
theorem selectProtocol_cases (hmax : 25 ≤ x.cfg.msgMax) (r : OutRegs) :
    ((x.len ≤ 4 ∨ [0, 1, 2, 3].map x.ports.msg.read ≠ header) ∧ selectProtocol x r = failWith .noDecoder r)
      ∨ (4 < x.len ∧ [0, 1, 2, 3].map x.ports.msg.read = header ∧
          ((x.len ≤ 11 ∧ selectProtocol x r = failWith .malformedLength r.writeHeader)
            ∨ (11 < x.len ∧ hexValue x.idString = none ∧ selectProtocol x r = failWith .invalidDigit r.writeHeader)
            ∨ ∃ id, 11 < x.len ∧ hexValue x.idString = some id ∧
                ((selectById (zext16 id) = none ∧ selectProtocol x r
                    = failWith .unknownSubprotocol (r.writeHeader.writeFamilyId (zext16 id)))
                  ∨ ∃ sp, selectById (zext16 id) = some sp ∧ selectProtocol x r
                    = .ok (sp, (r.writeHeader.writeFamilyId (zext16 id)).writeSubproto (subprotoCode sp))))) := by
  have hsub : stageSubId x r.writeHeader
      = (orInvalidDigit r.writeHeader (hexValue x.idString)) >>= fun id => .ok (r.writeHeader.writeFamilyId (zext16 id)) := by
    unfold stageSubId
    rw [Snapshot.bodyChars_of_lt hmax (by decide), Stage.ok_bind]
    rfl
  unfold selectProtocol stageHeader
  by_cases hlen : x.len ≤ headerLen
  · exact .inl ⟨.inl hlen, by rw [if_pos hlen, failWith_bind]⟩
  · rw [if_neg hlen, Snapshot.chars_of_lt (by intro i hi; simp at hi; omega), Stage.ok_bind]
    by_cases hh : [0, 1, 2, 3].map x.ports.msg.read = header
    · refine .inr ⟨Nat.lt_of_not_le hlen, hh, ?_⟩
      rw [if_pos hh, Stage.ok_bind, stageMinLen]
      by_cases hmin : x.len ≤ decoderMinLen
      · exact .inl ⟨hmin, by rw [if_pos hmin, failWith_bind]⟩
      · have hmin' : 11 < x.len := Nat.lt_of_not_le hmin
        rw [if_neg hmin, Stage.ok_bind, hsub]
        rcases orInvalidDigit_cases r.writeHeader (hexValue x.idString) with ⟨hn, he⟩ | ⟨id, hs, he⟩
        · exact .inr (.inl ⟨hmin', hn, by rw [he, failWith_bind, failWith_bind]⟩)
        · refine .inr (.inr ⟨id, hmin', hs, ?_⟩)
          rw [he, Stage.ok_bind, Stage.ok_bind, stageSelect, OutRegs.writeFamilyId_familyId]
          cases hsel : selectById (zext16 id) with
          | none => exact .inl ⟨rfl, rfl⟩
          | some sp => exact .inr ⟨sp, rfl, rfl⟩
    · exact .inl ⟨.inr hh, by rw [if_neg hh, failWith_bind]⟩

/-- The selection recognises exactly the two IDs of R124. -/
theorem selectById_eq_some {id : Half} {sp : SubProtocol} (h : selectById id = some sp) : id = familyIdOf sp := by
  unfold selectById at h
  split at h
  · cases h
    assumption
  · split at h
    · cases h
      assumption
    · cases h

/-- IDENT ends as the selector does. -/
theorem opIdent_eq (r : OutRegs) : opIdent x r = selectProtocol x r >>= fun p => .ok p.2 := rfl

/-! ### TSUM and VALIDATE -/

/-- The computed temp-only checksum. -/
theorem tempOnlySum_eq {base : Nat} (hmax : base + 14 ≤ x.cfg.msgMax) (r : OutRegs) :
    tempOnlySum base x r
      = orInvalidDigit r (digitSum (tempOnlySumPositions.map fun i => x.ports.msg.read (base + i)) 0) := by
  unfold tempOnlySum
  rw [Snapshot.chars_of_lt, Stage.ok_bind, List.map_map]
  · rfl
  · intro j hj
    obtain ⟨i, hi, rfl⟩ := List.mem_map.mp hj
    simp [tempOnlySumPositions] at hi
    omega

/-- Every end of TSUM. -/
theorem opTsum_cases (hmax : 25 ≤ x.cfg.msgMax) (r : OutRegs) :
    (x.len ≠ 16 ∧ opTsum x r = failWith .malformedLength r)
      ∨ (x.len = 16 ∧ (hexValue ([15, 12].map x.ports.msg.read) = none
            ∨ digitSum (tempOnlySumPositions.map x.ports.msg.read) 0 = none) ∧ opTsum x r = failWith .invalidDigit r)
      ∨ ∃ tx v, x.len = 16 ∧ hexValue ([15, 12].map x.ports.msg.read) = some tx
          ∧ digitSum (tempOnlySumPositions.map x.ports.msg.read) 0 = some v
          ∧ opTsum x r = if sumOk v (byteOf tx) then .ok (r.writeSums (zext16 v) (byteOf tx))
              else failWith .checksumMismatch (r.writeSums (zext16 v) (byteOf tx)) := by
  unfold opTsum
  by_cases hlen : x.len ≠ tsumLen
  · exact .inl ⟨hlen, if_pos hlen⟩
  · have hlen' : x.len = 16 := not_not.mp hlen
    rw [if_neg hlen, Snapshot.chars_of_lt (by intro i hi; simp [sumTxPositions] at hi; omega), Stage.ok_bind,
      tempOnlySum_eq (by omega)]
    simp only [Nat.zero_add, sumTxPositions]
    rcases orInvalidDigit_cases r (hexValue ([15, 12].map x.ports.msg.read)) with ⟨hn, he⟩ | ⟨tx, hs, he⟩
    · exact .inr (.inl ⟨hlen', .inl hn, by rw [he, failWith_bind]⟩)
    · rw [he, Stage.ok_bind]
      rcases orInvalidDigit_cases r (digitSum (tempOnlySumPositions.map x.ports.msg.read) 0) with ⟨hn, he⟩ | ⟨v, hv, he⟩
      · exact .inr (.inl ⟨hlen', .inr hn, by rw [he, failWith_bind]⟩)
      · exact .inr (.inr ⟨tx, v, hlen', hs, hv, by rw [he, Stage.ok_bind]⟩)

/-- The Validator over a span fails, or gives both its sums. -/
theorem validateSpan_cases (span : List Byte) (r : OutRegs) :
    (vsum (swapPairs span) = none ∧ validateSpan span r = failWith .invalidDigit r)
      ∨ ∃ v c, vsum (swapPairs span) = some v ∧ vcrc (swapPairs span) = some c ∧ validateSpan span r = .ok (v, c) := by
  unfold validateSpan
  rcases orInvalidDigit_cases r (vsum (swapPairs span)) with ⟨hn, he⟩ | ⟨v, hv, he⟩
  · exact .inl ⟨hn, by simp only [he, failWith_bind]⟩
  · obtain ⟨c, hc⟩ := Option.isSome_iff_exists.mp (vcrc_isSome_iff.mpr (by simp [hv] : (vsum (swapPairs span)).isSome))
    exact .inr ⟨v, c, hv, hc, by simp [hv, hc]⟩

/-- Every end of VALIDATE. -/
theorem opValidate_cases (r : OutRegs) :
    ((x.cfg.msgMax < x.len ∨ x.len % 2 = 1) ∧ opValidate x r = failWith .malformedLength r)
      ∨ (x.len ≤ x.cfg.msgMax ∧ x.len % 2 = 0 ∧
          ((vsum (swapPairs ((List.range x.len).map x.ports.msg.read)) = none
              ∧ opValidate x r = failWith .invalidDigit r)
            ∨ ∃ v c, vsum (swapPairs ((List.range x.len).map x.ports.msg.read)) = some v
                ∧ vcrc (swapPairs ((List.range x.len).map x.ports.msg.read)) = some c
                ∧ opValidate x r
                  = if sumOk v x.ports.argSum && crcAllows x.cfg.crcEnforced c x.ports.argCrc
                    then .ok ((r.writeSums (zext16 v) x.ports.argSum).writeCrcs c x.ports.argCrc)
                    else failWith .checksumMismatch ((r.writeSums (zext16 v) x.ports.argSum).writeCrcs c x.ports.argCrc))) := by
  unfold opValidate
  by_cases hlen : x.cfg.msgMax < x.len ∨ x.len % 2 = 1
  · exact .inl ⟨hlen, if_pos hlen⟩
  · have hle : x.len ≤ x.cfg.msgMax := by omega
    refine .inr ⟨hle, by omega, ?_⟩
    rw [if_neg hlen, Snapshot.message_of_le hle, Stage.ok_bind]
    rcases validateSpan_cases ((List.range x.len).map x.ports.msg.read) r with ⟨hn, he⟩ | ⟨v, c, hv, hc, he⟩
    · exact .inl ⟨hn, by rw [he, failWith_bind]⟩
    · exact .inr ⟨v, c, hv, hc, by rw [he, Stage.ok_bind]⟩

/-! ### DECODE -/

/-- The body character `pt[i]`. -/
def Snapshot.body (x : Snapshot) (i : Nat) : Byte := x.ports.msg.read (5 + i)

/-- Every digit the FIELDS stage of both sub-protocols reads is good, and these are the fields (R193). -/
def FieldsAre (x : Snapshot) (sp : SubProtocol) (f : Fields) : Prop :=
  ∃ raw rolling batt sign tx,
    digitValue (x.body 4) = some raw ∧ hexValue [x.body 7, x.body 6] = some rolling
      ∧ digitValue (x.body 9) = some batt ∧ bcdDecimal [x.body 10, x.body 11, x.body 8] = some f.mag
      ∧ digitValue (x.body 13) = some sign ∧ hexValue ((sumTxPositions sp).map x.body) = some tx
      ∧ f = ⟨mapChannel x.cfg raw, byteOf rolling, batteryBit batt, f.mag, signBit sign, byteOf tx⟩

/-- Some digit the FIELDS stage of both sub-protocols reads is bad (R193). -/
def FieldsBad (x : Snapshot) (sp : SubProtocol) : Prop :=
  digitValue (x.body 4) = none ∨ hexValue [x.body 7, x.body 6] = none ∨ digitValue (x.body 9) = none
    ∨ bcdDecimal [x.body 10, x.body 11, x.body 8] = none ∨ digitValue (x.body 13) = none
    ∨ hexValue ((sumTxPositions sp).map x.body) = none

theorem fieldChannel_eq (hmax : 25 ≤ x.cfg.msgMax) (r : OutRegs) :
    fieldChannel x r = orInvalidDigit r ((digitValue (x.body 4)).map (mapChannel x.cfg)) := by
  unfold fieldChannel
  rw [Snapshot.bodyChars_of_lt hmax (by decide)]
  show orInvalidDigit r (digitValue (x.body 4)) >>= _ = _
  cases digitValue (x.body 4) <;> rfl

theorem fieldRolling_eq (hmax : 25 ≤ x.cfg.msgMax) (r : OutRegs) :
    fieldRolling x r = orInvalidDigit r ((hexValue [x.body 7, x.body 6]).map byteOf) := by
  unfold fieldRolling
  rw [Snapshot.bodyChars_of_lt hmax (by decide)]
  show orInvalidDigit r (hexValue [x.body 7, x.body 6]) >>= _ = _
  cases hexValue [x.body 7, x.body 6] <;> rfl

theorem fieldBattery_eq (hmax : 25 ≤ x.cfg.msgMax) (r : OutRegs) :
    fieldBattery x r = orInvalidDigit r ((digitValue (x.body 9)).map batteryBit) := by
  unfold fieldBattery
  rw [Snapshot.bodyChars_of_lt hmax (by decide)]
  show orInvalidDigit r (digitValue (x.body 9)) >>= _ = _
  cases digitValue (x.body 9) <;> rfl

theorem fieldMagnitude_eq (hmax : 25 ≤ x.cfg.msgMax) (r : OutRegs) :
    fieldMagnitude x r = orInvalidDigit r (bcdDecimal [x.body 10, x.body 11, x.body 8]) := by
  unfold fieldMagnitude
  rw [Snapshot.bodyChars_of_lt hmax (by decide)]
  rfl

theorem fieldSign_eq (hmax : 25 ≤ x.cfg.msgMax) (r : OutRegs) :
    fieldSign x r = orInvalidDigit r ((digitValue (x.body 13)).map signBit) := by
  unfold fieldSign
  rw [Snapshot.bodyChars_of_lt hmax (by decide)]
  show orInvalidDigit r (digitValue (x.body 13)) >>= _ = _
  cases digitValue (x.body 13) <;> rfl

theorem fieldHumidity_eq (hmax : 25 ≤ x.cfg.msgMax) (r : OutRegs) :
    fieldHumidity x r = orInvalidDigit r (bcdDecimal [x.body 15, x.body 12, humidityLastDigit]) := by
  unfold fieldHumidity
  rw [Snapshot.bodyChars_of_lt hmax (by decide)]
  rfl

theorem fieldSumTx_eq (sp : SubProtocol) (hmax : 25 ≤ x.cfg.msgMax) (r : OutRegs) :
    fieldSumTx sp x r = orInvalidDigit r ((hexValue ((sumTxPositions sp).map x.body)).map byteOf) := by
  unfold fieldSumTx
  rw [Snapshot.bodyChars_of_lt hmax (by cases sp <;> decide)]
  show orInvalidDigit r (hexValue ((sumTxPositions sp).map x.body)) >>= _ = _
  cases hexValue ((sumTxPositions sp).map x.body) <;> rfl

theorem fieldCrcTx_eq (hmax : 25 ≤ x.cfg.msgMax) (r : OutRegs) :
    fieldCrcTx x r = orInvalidDigit r ((hexValue [x.body 18, x.body 19]).map byteOf) := by
  unfold fieldCrcTx
  rw [Snapshot.bodyChars_of_lt hmax (by decide)]
  show orInvalidDigit r (hexValue [x.body 18, x.body 19]) >>= _ = _
  cases hexValue [x.body 18, x.body 19] <;> rfl

/-- The FIELDS stage of sub-protocol 0xEC40. -/
theorem fieldsTempOnly_cases (hmax : 25 ≤ x.cfg.msgMax) (r : OutRegs) :
    (FieldsBad x .tempOnly ∧ fieldsTempOnly x r = failWith .invalidDigit r)
      ∨ ∃ f, FieldsAre x .tempOnly f ∧ fieldsTempOnly x r = .ok f := by
  unfold fieldsTempOnly
  rw [fieldChannel_eq hmax, fieldRolling_eq hmax, fieldBattery_eq hmax, fieldMagnitude_eq hmax, fieldSign_eq hmax,
    fieldSumTx_eq _ hmax]
  unfold FieldsBad
  rcases h4 : digitValue (x.body 4) with _ | raw
  · exact .inl ⟨.inl rfl, rfl⟩
  rcases h7 : hexValue [x.body 7, x.body 6] with _ | rolling
  · exact .inl ⟨.inr (.inl rfl), rfl⟩
  rcases h9 : digitValue (x.body 9) with _ | batt
  · exact .inl ⟨.inr (.inr (.inl rfl)), rfl⟩
  rcases h10 : bcdDecimal [x.body 10, x.body 11, x.body 8] with _ | mag
  · exact .inl ⟨.inr (.inr (.inr (.inl rfl))), rfl⟩
  rcases h13 : digitValue (x.body 13) with _ | sign
  · exact .inl ⟨.inr (.inr (.inr (.inr (.inl rfl)))), rfl⟩
  rcases h15 : hexValue ((sumTxPositions .tempOnly).map x.body) with _ | tx
  · exact .inl ⟨.inr (.inr (.inr (.inr (.inr rfl)))), rfl⟩
  exact .inr ⟨⟨mapChannel x.cfg raw, byteOf rolling, batteryBit batt, mag, signBit sign, byteOf tx⟩,
    ⟨raw, rolling, batt, sign, tx, h4, h7, h9, h10, h13, h15, rfl⟩, rfl⟩

/-- The FIELDS stage of sub-protocol 0x1D20. -/
theorem fieldsTempHum_cases (hmax : 25 ≤ x.cfg.msgMax) (r : OutRegs) :
    ((FieldsBad x .tempHum ∨ bcdDecimal [x.body 15, x.body 12, humidityLastDigit] = none
          ∨ hexValue [x.body 18, x.body 19] = none) ∧ fieldsTempHum x r = failWith .invalidDigit r)
      ∨ ∃ f hum crc, FieldsAre x .tempHum f ∧ bcdDecimal [x.body 15, x.body 12, humidityLastDigit] = some hum
          ∧ hexValue [x.body 18, x.body 19] = some crc ∧ fieldsTempHum x r = .ok (f, hum, byteOf crc) := by
  unfold fieldsTempHum
  rw [fieldChannel_eq hmax, fieldRolling_eq hmax, fieldBattery_eq hmax, fieldMagnitude_eq hmax, fieldSign_eq hmax,
    fieldHumidity_eq hmax, fieldSumTx_eq _ hmax, fieldCrcTx_eq hmax]
  unfold FieldsBad
  rcases h4 : digitValue (x.body 4) with _ | raw
  · exact .inl ⟨.inl (.inl rfl), rfl⟩
  rcases h7 : hexValue [x.body 7, x.body 6] with _ | rolling
  · exact .inl ⟨.inl (.inr (.inl rfl)), rfl⟩
  rcases h9 : digitValue (x.body 9) with _ | batt
  · exact .inl ⟨.inl (.inr (.inr (.inl rfl))), rfl⟩
  rcases h10 : bcdDecimal [x.body 10, x.body 11, x.body 8] with _ | mag
  · exact .inl ⟨.inl (.inr (.inr (.inr (.inl rfl)))), rfl⟩
  rcases h13 : digitValue (x.body 13) with _ | sign
  · exact .inl ⟨.inl (.inr (.inr (.inr (.inr (.inl rfl))))), rfl⟩
  rcases h15 : bcdDecimal [x.body 15, x.body 12, humidityLastDigit] with _ | hum
  · exact .inl ⟨.inr (.inl rfl), rfl⟩
  rcases h16 : hexValue ((sumTxPositions .tempHum).map x.body) with _ | tx
  · exact .inl ⟨.inl (.inr (.inr (.inr (.inr (.inr rfl))))), rfl⟩
  rcases h18 : hexValue [x.body 18, x.body 19] with _ | crc
  · exact .inl ⟨.inr (.inr rfl), rfl⟩
  exact .inr ⟨⟨mapChannel x.cfg raw, byteOf rolling, batteryBit batt, mag, signBit sign, byteOf tx⟩, hum, crc,
    ⟨raw, rolling, batt, sign, tx, h4, h7, h9, h10, h13, h16, rfl⟩, rfl, rfl, rfl⟩

/-- Every end of stages FIELDS to COMMIT of sub-protocol 0xEC40. -/
theorem decodeTempOnly_cases (hmax : 25 ≤ x.cfg.msgMax) (r : OutRegs) :
    ((FieldsBad x .tempOnly ∨ digitSum (tempOnlySumPositions.map x.body) 0 = none)
        ∧ decodeTempOnly x r = failWith .invalidDigit r)
      ∨ ∃ f v, FieldsAre x .tempOnly f ∧ digitSum (tempOnlySumPositions.map x.body) 0 = some v
          ∧ decodeTempOnly x r = if sumOk v f.sumTx then .ok (commitFields (writeDiagnostics r f v) f)
              else failWith .checksumMismatch (writeDiagnostics r f v) := by
  unfold decodeTempOnly
  rcases fieldsTempOnly_cases hmax r with ⟨hb, he⟩ | ⟨f, hf, he⟩
  · exact .inl ⟨.inl hb, by rw [he, failWith_bind]⟩
  · rw [he, Stage.ok_bind, tempOnlySum_eq (by simp only [bodyOffset]; omega)]
    rcases orInvalidDigit_cases r (digitSum (tempOnlySumPositions.map x.body) 0) with ⟨hn, hd⟩ | ⟨v, hv, hd⟩
    · exact .inl ⟨.inr hn, by
        show orInvalidDigit r (digitSum (tempOnlySumPositions.map x.body) 0) >>= _ = _
        rw [hd, failWith_bind]⟩
    · exact .inr ⟨f, v, hf, hv, by
        show orInvalidDigit r (digitSum (tempOnlySumPositions.map x.body) 0) >>= _ = _
        rw [hd, Stage.ok_bind]⟩

/-- The working copy of a Temp+Humidity body (R174). -/
def Snapshot.workingCopy (x : Snapshot) : List Byte := swapPairs (validatorSpan.map x.body)

/-- Every end of stages FIELDS to COMMIT of sub-protocol 0x1D20. -/
theorem decodeTempHum_cases (hmax : 25 ≤ x.cfg.msgMax) (r : OutRegs) :
    ((FieldsBad x .tempHum ∨ bcdDecimal [x.body 15, x.body 12, humidityLastDigit] = none
          ∨ hexValue [x.body 18, x.body 19] = none ∨ vsum x.workingCopy = none)
        ∧ decodeTempHum x r = failWith .invalidDigit r)
      ∨ ∃ f hum crc v c, FieldsAre x .tempHum f ∧ bcdDecimal [x.body 15, x.body 12, humidityLastDigit] = some hum
          ∧ hexValue [x.body 18, x.body 19] = some crc ∧ vsum x.workingCopy = some v ∧ vcrc x.workingCopy = some c
          ∧ decodeTempHum x r
            = if sumOk v f.sumTx && crcAllows x.cfg.crcEnforced c (byteOf crc)
              then .ok ((commitFields ((writeDiagnostics r f v).writeCrcs c (byteOf crc)) f).commitHum (zext16 hum))
              else failWith .checksumMismatch ((writeDiagnostics r f v).writeCrcs c (byteOf crc)) := by
  unfold decodeTempHum
  rcases fieldsTempHum_cases hmax r with ⟨hb, he⟩ | ⟨f, hum, crc, hf, hh, hc, he⟩
  · refine .inl ⟨?_, by rw [he, failWith_bind]⟩
    rcases hb with hb | hb | hb
    · exact .inl hb
    · exact .inr (.inl hb)
    · exact .inr (.inr (.inl hb))
  · rw [he, Stage.ok_bind]
    simp only []
    rw [Snapshot.bodyChars_of_lt hmax (is := validatorSpan) (by decide), Stage.ok_bind]
    rcases validateSpan_cases (validatorSpan.map x.body) r with ⟨hn, hd⟩ | ⟨v, c, hv, hvc, hd⟩
    · exact .inl ⟨.inr (.inr (.inr hn)), by
        show validateSpan (validatorSpan.map x.body) r >>= _ = _
        rw [hd, failWith_bind]⟩
    · exact .inr ⟨f, hum, crc, v, c, hf, hh, hc, hv, hvc, by
        show validateSpan (validatorSpan.map x.body) r >>= _ = _
        rw [hd, Stage.ok_bind]⟩

/-- DECODE after a successful selection. -/
theorem opDecode_of_select {r q : OutRegs} {sp : SubProtocol} (h : selectProtocol x r = .ok (sp, q)) :
    opDecode x r = if x.len - 5 ≠ bodyLenOf sp then failWith .malformedLength q
      else match sp with
        | .tempOnly => decodeTempOnly x q
        | .tempHum => decodeTempHum x q := by
  unfold opDecode
  rw [h, Stage.ok_bind]
  by_cases hlen : x.len - 5 ≠ bodyLenOf sp
  · have hb : stageBodyLen sp x q = failWith .malformedLength q := if_pos hlen
    simp only [hb, failWith_bind, if_pos hlen]
  · have hb : stageBodyLen sp x q = .ok () := if_neg hlen
    cases sp <;> exact (congrArg (· >>= _) hb).trans (if_neg hlen).symm

/-- DECODE after a failed selection ends as the selector did. -/
theorem opDecode_of_select_fail {r q : OutRegs} {code : StatusCode} (h : selectProtocol x r = failWith code q) :
    opDecode x r = failWith code q := by
  unfold opDecode
  rw [h, failWith_bind]

end Sys2Proof.Machine
end

