-- ==== Sys2Proof/Laws/Ends.lean ====
section
/-! SUPPORT. What a command can leave, said once: every register file that a command can end with, and the lemma that it ends with
one of them. Facts about all states follow from it by cases, without unfolding a meaning. -/

namespace Sys2Proof.Machine

/-- The register file after a header match (R120), with `STATUS = code`. -/
def OutRegs.afterHeader (code : StatusCode) : OutRegs := OutRegs.reset.writeHeader.setStatus code

/-- The register file after SELECT (R123), with `STATUS = code`. -/
def OutRegs.afterSelect (code : StatusCode) (sp : SubProtocol) : OutRegs :=
  ((OutRegs.reset.writeHeader.writeFamilyId (familyIdOf sp)).writeSubproto (subprotoCode sp)).setStatus code

/-- The facts about the fields of an accepted or rejected body that do not depend on the message: the ranges of R145. -/
def Fields.Bounded (cfg : Config) (f : Fields) : Prop := f.mag ≤ 999 ∧ ∃ raw, f.channel = mapChannel cfg raw

/-- The diagnostics DECODE has written when it ends with `code` (R195): no CRC for sub-protocol 0xEC40. -/
def OutRegs.afterSums (code : StatusCode) (sp : SubProtocol) (f : Fields) (v : Nat) : OutRegs :=
  writeDiagnostics (OutRegs.afterSelect code sp) f v

/-- Every register file a command can end with. -/
inductive Leaves (s : State) : Instr → OutRegs → Prop where
  /-- A codec result (R101, R103, R105). -/
  | codec (i : Instr) (v : Half) (hi : i = .digit ∨ i = .hex ∨ i = .bcd) : Leaves s i { OutRegs.reset with status := .ok, result := v }
  /-- A failure before anything is written. -/
  | nothing (i : Instr) (code : StatusCode) (hc : code = .noDecoder ∨ code = .invalidDigit ∨ code = .malformedLength ∨ code = .illegalOp)
      : Leaves s i { OutRegs.reset with status := code }
  /-- MINLEN or SUBID failed (R121, R122). -/
  | header (i : Instr) (code : StatusCode) (hi : i = .decode ∨ i = .ident) (hc : code = .invalidDigit ∨ code = .malformedLength)
      : Leaves s i (OutRegs.afterHeader code)
  /-- SELECT failed (R123). -/
  | unknown (i : Instr) (id : Half) (hi : i = .decode ∨ i = .ident) (hid : id ≠ 0xEC40 ∧ id ≠ 0x1D20)
      : Leaves s i ((OutRegs.reset.writeHeader.writeFamilyId id).setStatus .unknownSubprotocol)
  /-- IDENT succeeded (R126). -/
  | ident (sp : SubProtocol) : Leaves s .ident (OutRegs.afterSelect .ok sp)
  /-- BODYLEN, FIELDS or a digit of CHECK failed (R141, R193, R194, R174). -/
  | selected (code : StatusCode) (sp : SubProtocol) (hc : code = .invalidDigit ∨ code = .malformedLength)
      : Leaves s .decode (OutRegs.afterSelect code sp)
  /-- The checksum of sub-protocol 0xEC40 failed (R196). -/
  | tempOnlyMismatch (f : Fields) (v : Nat) (hv : v ≤ 180)
      : Leaves s .decode (OutRegs.afterSums .checksumMismatch .tempOnly f v)
  /-- A Reading of sub-protocol 0xEC40 (R198). -/
  | tempOnly (f : Fields) (v : Nat) (hlen : s.msgLength = 21) (hf : f.Bounded s.cfg) (hv : v ≤ 180)
      : Leaves s .decode (commitFields (OutRegs.afterSums .ok .tempOnly f v) f)
  /-- The checks of sub-protocol 0x1D20 failed (R174, R175). -/
  | tempHumMismatch (f : Fields) (v : Nat) (c t : Byte) (hv : v ≤ 225)
      : Leaves s .decode ((OutRegs.afterSums .checksumMismatch .tempHum f v).writeCrcs c t)
  /-- A Reading of sub-protocol 0x1D20 (R198). -/
  | tempHum (f : Fields) (v hum : Nat) (c t : Byte) (hlen : s.msgLength = 25) (hf : f.Bounded s.cfg) (hv : v ≤ 225)
      (hhum : hum ≤ 990 ∧ hum % 10 = 0) (hcrc : crcAllows s.cfg.crcEnforced c t = true)
      : Leaves s .decode ((commitFields ((OutRegs.afterSums .ok .tempHum f v).writeCrcs c t) f).commitHum (zext16 hum))
  /-- TSUM compared its sums (R150). -/
  | tsum (v : Nat) (t : Byte) (code : StatusCode) (hv : v ≤ 180) (hc : code = if sumOk v t then .ok else .checksumMismatch)
      : Leaves s .tsum ((OutRegs.reset.writeSums (zext16 v) t).setStatus code)
  /-- VALIDATE compared its sums (R176). -/
  | validate (v : Nat) (c : Byte) (code : StatusCode) (hlen : s.msgLength ≤ s.cfg.msgMax) (heven : s.msgLength % 2 = 0)
      (hv : v ≤ 15 * (s.msgLength - 1))
      (hc : code = if sumOk v s.ports.argSum && crcAllows s.cfg.crcEnforced c s.ports.argCrc then .ok else .checksumMismatch)
      : Leaves s .validate (((OutRegs.reset.writeSums (zext16 v) s.ports.argSum).writeCrcs c s.ports.argCrc).setStatus code)

/-- A three-digit BCD value is at most 999 tenths. -/
theorem bcdDecimal_three_le {a b c : Byte} {v : Nat} (h : bcdDecimal [a, b, c] = some v) : v ≤ 999 := by
  unfold bcdDecimal foldDigits at h
  cases ha : bcdDigit a with
  | none => simp [ha] at h
  | some p =>
    cases hb : bcdDigit b with
    | none => simp [ha, foldDigits_cons_none hb] at h
    | some q =>
      cases hc : bcdDigit c with
      | none => simp [ha, foldDigits_cons_some hb, foldDigits_cons_none hc] at h
      | some r =>
        have hp := (bcdDigit_eq_some.mp ha).2
        have hq := (bcdDigit_eq_some.mp hb).2
        have hr := (bcdDigit_eq_some.mp hc).2
        simp [ha, foldDigits_cons_some hb, foldDigits_cons_some hc] at h
        omega

/-- A humidity is at most 990 tenths, and a whole percent (R146). -/
theorem humidity_range {a b : Byte} {v : Nat} (h : bcdDecimal [a, b, humidityLastDigit] = some v) : v ≤ 990 ∧ v % 10 = 0 := by
  have hz : bcdDigit humidityLastDigit = some 0 := by decide
  unfold bcdDecimal foldDigits at h
  cases ha : bcdDigit a with
  | none => simp [ha] at h
  | some p =>
    cases hb : bcdDigit b with
    | none => simp [ha, foldDigits_cons_none hb] at h
    | some q =>
      have hp := (bcdDigit_eq_some.mp ha).2
      have hq := (bcdDigit_eq_some.mp hb).2
      simp [ha, foldDigits_cons_some hb, foldDigits_cons_some hz] at h
      omega

/-- The ranges of the fields. -/
theorem FieldsAre.bounded {x : Snapshot} {sp : SubProtocol} {f : Fields} (h : FieldsAre x sp f) : f.Bounded x.cfg := by
  obtain ⟨raw, rolling, batt, sign, tx, -, -, -, hmag, -, -, hf⟩ := h
  refine ⟨bcdDecimal_three_le hmag, raw, ?_⟩
  rw [hf]

/-- What the selector leaves. -/
theorem selectProtocol_ends (s : State) (hl : s.cfg.Legal) (i : Instr) (hi : i = .decode ∨ i = .ident) :
    (∃ code q, selectProtocol s.snapshot s.regs.clear = failWith code q ∧ Leaves s i (q.setStatus code))
      ∨ ∃ sp, selectProtocol s.snapshot s.regs.clear
          = .ok (sp, (s.regs.clear.writeHeader.writeFamilyId (familyIdOf sp)).writeSubproto (subprotoCode sp)) := by
  rcases selectProtocol_cases (x := s.snapshot) hl.1 s.regs.clear with
    ⟨-, h⟩ | ⟨-, -, ⟨-, h⟩ | ⟨-, -, h⟩ | ⟨id, -, -, ⟨hid, h⟩ | ⟨sp, hid, h⟩⟩⟩
  · exact .inl ⟨_, _, h, .nothing i .noDecoder (.inl rfl)⟩
  · exact .inl ⟨_, _, h, .header i .malformedLength hi (.inr rfl)⟩
  · exact .inl ⟨_, _, h, .header i .invalidDigit hi (.inl rfl)⟩
  · refine .inl ⟨_, _, h, .unknown i (zext16 id) hi ?_⟩
    constructor <;> (intro he; rw [he] at hid; revert hid; decide)
  · rw [selectById_eq_some hid] at h
    exact .inr ⟨sp, h⟩

/-- An operation that leaves a register file the list names makes its command leave it. -/
theorem leaves_of_ok {s : State} {i : Instr} {op : Snapshot → OutRegs → Stage OutRegs} {r : OutRegs}
    (h : op s.snapshot s.regs.clear = .ok r) (hr : Leaves s i (r.setStatus .ok)) :
    ∃ q, runOperation op s = .next (s.setRegs q) ∧ Leaves s i q :=
  ⟨_, runOperation_ok h, hr⟩

theorem leaves_of_fail {s : State} {i : Instr} {op : Snapshot → OutRegs → Stage OutRegs} {code : StatusCode} {r : OutRegs}
    (h : op s.snapshot s.regs.clear = failWith code r) (hr : Leaves s i (r.setStatus code)) :
    ∃ q, runOperation op s = .next (s.setRegs q) ∧ Leaves s i q :=
  ⟨_, runOperation_fail h, hr⟩

/-- A sum over the temp-only positions is at most 180 (R149). -/
theorem tempOnly_sum_le {read : Nat → Byte} {v : Nat} (h : digitSum (tempOnlySumPositions.map read) 0 = some v) : v ≤ 180 := by
  have := digitSum_le h
  simpa [tempOnlySumPositions] using this

/-- A Validator sum is at most 15 for each position but one (R171). -/
theorem vsum_le {w : List Byte} {v : Nat} (h : vsum w = some v) : v ≤ 15 * (w.length - 1) := by
  have := digitSum_le h
  simpa using this

/-- Every command ends, with one of the register files the list names. -/
theorem exec_leaves (i : Instr) (s : State) (hl : s.cfg.Legal) :
    ∃ q, exec i s = .next (s.setRegs q) ∧ Leaves s i q := by
  have hmax : 25 ≤ s.snapshot.cfg.msgMax := hl.1
  rw [exec_eq_runOperation]
  cases i with
  | decode =>
    rcases selectProtocol_ends s hl .decode (.inl rfl) with ⟨code, q, h, hq⟩ | ⟨sp, h⟩
    · exact leaves_of_fail (op := opDecode) (opDecode_of_select_fail h) hq
    have hd := opDecode_of_select h
    by_cases hlen : s.snapshot.len - 5 ≠ bodyLenOf sp
    · rw [if_pos hlen] at hd
      exact leaves_of_fail (op := opDecode) hd (.selected .malformedLength sp (.inr rfl))
    rw [if_neg hlen] at hd
    have hlen' : s.msgLength - 5 = bodyLenOf sp := not_not.mp hlen
    cases sp with
    | tempOnly =>
      rcases decodeTempOnly_cases hmax _ with ⟨-, he⟩ | ⟨f, v, hf, hv, he⟩
      · exact leaves_of_fail (op := opDecode) (hd.trans he) (.selected .invalidDigit .tempOnly (.inl rfl))
      · have hd := hd.trans he
        split at hd
        · exact leaves_of_ok (op := opDecode) hd
            (.tempOnly f v (by simp only [bodyLenOf] at hlen'; omega) hf.bounded (tempOnly_sum_le hv))
        · exact leaves_of_fail (op := opDecode) hd (.tempOnlyMismatch f v (tempOnly_sum_le hv))
    | tempHum =>
      rcases decodeTempHum_cases hmax _ with ⟨-, he⟩ | ⟨f, hum, crc, v, c, hf, hh, -, hv, -, he⟩
      · exact leaves_of_fail (op := opDecode) (hd.trans he) (.selected .invalidDigit .tempHum (.inl rfl))
      · have hd := hd.trans he
        have hv' : v ≤ 225 := by simpa [Snapshot.workingCopy, validatorSpan] using vsum_le hv
        split at hd
        · rename_i hpass
          exact leaves_of_ok (op := opDecode) hd (.tempHum f v hum c (byteOf crc) (by simp only [bodyLenOf] at hlen'; omega)
            hf.bounded hv' (humidity_range hh) (Bool.and_eq_true .. ▸ hpass).2)
        · exact leaves_of_fail (op := opDecode) hd (.tempHumMismatch f v c (byteOf crc) hv')
  | digit =>
    rcases opDigit_cases hmax s.regs.clear with ⟨-, h⟩ | ⟨d, -, h⟩
    · exact leaves_of_fail (op := opDigit) h (.nothing .digit .invalidDigit (by simp))
    · exact leaves_of_ok (op := opDigit) h (.codec .digit _ (by simp))
  | hex =>
    rcases opConvert_cases hexValue hmax s.regs.clear with ⟨-, h⟩ | ⟨-, -, h⟩ | ⟨v, -, -, h⟩
    · exact leaves_of_fail (op := opConvert hexValue) h (.nothing .hex .malformedLength (by simp))
    · exact leaves_of_fail (op := opConvert hexValue) h (.nothing .hex .invalidDigit (by simp))
    · exact leaves_of_ok (op := opConvert hexValue) h (.codec .hex _ (by simp))
  | bcd =>
    rcases opConvert_cases bcdDecimal hmax s.regs.clear with ⟨-, h⟩ | ⟨-, -, h⟩ | ⟨v, -, -, h⟩
    · exact leaves_of_fail (op := opConvert bcdDecimal) h (.nothing .bcd .malformedLength (by simp))
    · exact leaves_of_fail (op := opConvert bcdDecimal) h (.nothing .bcd .invalidDigit (by simp))
    · exact leaves_of_ok (op := opConvert bcdDecimal) h (.codec .bcd _ (by simp))
  | ident =>
    rcases selectProtocol_ends s hl .ident (.inr rfl) with ⟨code, q, h, hq⟩ | ⟨sp, h⟩
    · exact leaves_of_fail (op := opIdent) (by rw [opIdent_eq, h]; rfl) hq
    · have hok : opIdent s.snapshot s.regs.clear
          = .ok ((s.regs.clear.writeHeader.writeFamilyId (familyIdOf sp)).writeSubproto (subprotoCode sp)) := by
        rw [opIdent_eq, h]
        rfl
      exact leaves_of_ok hok (.ident sp)
  | validate =>
    rcases opValidate_cases (x := s.snapshot) s.regs.clear with ⟨-, h⟩ | ⟨hle, heven, ⟨-, h⟩ | ⟨v, c, hv, -, h⟩⟩
    · exact leaves_of_fail (op := opValidate) h (.nothing .validate .malformedLength (by simp))
    · exact leaves_of_fail (op := opValidate) h (.nothing .validate .invalidDigit (by simp))
    · have hlen : v ≤ 15 * (s.snapshot.len - 1) := by simpa using vsum_le hv
      have hv' : v ≤ 15 * (s.msgLength - 1) := hlen
      split at h
      · rename_i hpass
        exact leaves_of_ok (op := opValidate) h (.validate v c .ok hle heven hv' (if_pos hpass).symm)
      · rename_i hpass
        exact leaves_of_fail (op := opValidate) h (.validate v c .checksumMismatch hle heven hv' (if_neg hpass).symm)
  | tsum =>
    rcases opTsum_cases hmax s.regs.clear with ⟨-, h⟩ | ⟨-, -, h⟩ | ⟨tx, v, -, -, hv, h⟩
    · exact leaves_of_fail (op := opTsum) h (.nothing .tsum .malformedLength (by simp))
    · exact leaves_of_fail (op := opTsum) h (.nothing .tsum .invalidDigit (by simp))
    · split at h
      · rename_i hpass
        exact leaves_of_ok (op := opTsum) h (.tsum v (byteOf tx) .ok (tempOnly_sum_le hv) (if_pos hpass).symm)
      · rename_i hpass
        exact leaves_of_fail (op := opTsum) h (.tsum v (byteOf tx) .checksumMismatch (tempOnly_sum_le hv) (if_neg hpass).symm)
  | reserved7 => exact ⟨_, rfl, .nothing _ .illegalOp (by simp)⟩
  | reservedHigh x => exact ⟨_, rfl, .nothing _ .illegalOp (by simp)⟩

end Sys2Proof.Machine
end

