-- ==== Sys2Proof/Laws/Memory.lean ====
section
/-! SUPPORT. The laws of the message buffer: read after write, and that every memory operation keeps the canonical form. -/

namespace Sys2Proof.Machine

@[simp] theorem Memory.read_nil (a : Nat) : Memory.read [] a = unlistedChar := rfl

/-- A position below every listed one is unlisted. -/
theorem Memory.read_of_lt {m : Memory} {a : Nat} (h : ∀ c ∈ m, a < c.1) : m.read a = unlistedChar := by
  induction m with
  | nil => rfl
  | cons c m ih =>
    obtain ⟨k, b⟩ := c
    have hk : a < k := h (k, b) (by simp)
    simp only [Memory.read, if_neg (Nat.ne_of_gt hk)]
    exact ih fun c hc => h c (by simp [hc])

/-- What a write can add to the listed pairs. -/
theorem Memory.mem_write {m : Memory} {a : Nat} {b : Byte} {c : Host.Cell} (h : c ∈ m.write a b) :
    c ∈ m ∨ (c = (a, b) ∧ b ≠ unlistedChar) := by
  induction m with
  | nil =>
    simp only [Memory.write] at h
    split at h
    · simp at h
    · exact .inr ⟨by simpa using h, ‹_›⟩
  | cons d m ih =>
    obtain ⟨k, e⟩ := d
    simp only [Memory.write] at h
    split at h
    · split at h
      · exact .inl h
      · rcases List.mem_cons.mp h with rfl | h
        · exact .inr ⟨rfl, ‹_›⟩
        · exact .inl h
    · split at h
      · split at h
        · exact .inl (by simp [h])
        · rcases List.mem_cons.mp h with rfl | h
          · exact .inr ⟨rfl, ‹_›⟩
          · exact .inl (by simp [h])
      · rcases List.mem_cons.mp h with rfl | h
        · exact .inl (by simp)
        · rcases ih h with h | h
          · exact .inl (by simp [h])
          · exact .inr h

/-- A write keeps the canonical form. -/
theorem Memory.wf_write {m : Memory} (h : m.wf) (a : Nat) (b : Byte) : (m.write a b).wf := by
  refine ⟨?_, fun c hc => ?_⟩
  · induction m with
    | nil => simp only [Memory.write]; split <;> simp
    | cons d m ih =>
      obtain ⟨k, e⟩ := d
      obtain ⟨hp, hz⟩ := h
      rw [List.pairwise_cons] at hp
      have htail : (Memory.write m a b).Pairwise (fun c d => c.1 < d.1) :=
        ih ⟨hp.2, fun c hc => hz c (by simp [hc])⟩
      simp only [Memory.write]
      split
      · rename_i hak
        split
        · exact List.pairwise_cons.mpr hp
        · refine List.pairwise_cons.mpr ⟨fun c hc => ?_, List.pairwise_cons.mpr hp⟩
          rcases List.mem_cons.mp hc with rfl | hc
          · exact hak
          · exact Nat.lt_trans hak (hp.1 c hc)
      · split
        · rename_i hak
          split
          · exact hp.2
          · exact List.pairwise_cons.mpr ⟨fun c hc => by simpa [hak] using hp.1 c hc, hp.2⟩
        · refine List.pairwise_cons.mpr ⟨fun c hc => ?_, htail⟩
          rcases Memory.mem_write hc with hc | ⟨rfl, -⟩
          · exact hp.1 c hc
          · show k < a
            omega
  · rcases Memory.mem_write hc with hc | ⟨rfl, hb⟩
    · exact h.2 c hc
    · exact hb

/-- A write at an existing position lists only existing positions. -/
theorem Memory.below_write {m : Memory} {n a : Nat} (h : m.below n) (ha : a < n) (b : Byte) : (m.write a b).below n := by
  intro c hc
  rcases Memory.mem_write hc with hc | ⟨rfl, -⟩
  · exact h c hc
  · exact ha

/-- Read after write. -/
theorem Memory.read_write {m : Memory} (h : m.wf) (a : Nat) (b : Byte) (p : Nat) :
    (m.write a b).read p = if p = a then b else m.read p := by
  induction m with
  | nil =>
    simp only [Memory.write]
    split
    · simp_all
    · simp only [Memory.read, eq_comm]
  | cons d m ih =>
    obtain ⟨k, e⟩ := d
    obtain ⟨hp, hz⟩ := h
    rw [List.pairwise_cons] at hp
    have ih := ih ⟨hp.2, fun c hc => hz c (by simp [hc])⟩
    have hlow : ∀ q, q ≤ k → Memory.read m q = unlistedChar := fun q hq =>
      Memory.read_of_lt fun c hc => Nat.lt_of_le_of_lt hq (hp.1 c hc)
    simp only [Memory.write]
    split
    · rename_i hak
      split
      · rename_i hb
        by_cases hpa : p = a
        · subst hpa
          simp [Memory.read, Nat.ne_of_gt hak, hlow p (Nat.le_of_lt hak), hb]
        · simp [hpa]
      · simp only [Memory.read, eq_comm (a := a)]
    · split
      · rename_i hak
        subst hak
        split
        · rename_i hb
          by_cases hpa : p = a
          · subst hpa
            simp [hlow p (Nat.le_refl p), hb]
          · simp [hpa, Memory.read, Ne.symm hpa]
        · by_cases hpa : p = a
          · simp [hpa, Memory.read]
          · simp [hpa, Memory.read, Ne.symm hpa]
      · rename_i hlt hne
        simp only [Memory.read, ih]
        by_cases hk : k = p
        · have : p ≠ a := by omega
          simp [hk, this]
        · simp [hk]

/-- Writing a string keeps the canonical form. -/
theorem Memory.wf_writeString {m : Memory} (h : m.wf) (a : Nat) (bs : List Byte) : (m.writeString a bs).wf := by
  induction bs generalizing m a with
  | nil => exact h
  | cons b bs ih => exact ih (Memory.wf_write h a b) (a + 1)

/-- A string that fits lists only existing positions. -/
theorem Memory.below_writeString {m : Memory} {n : Nat} (h : m.below n) (a : Nat) (bs : List Byte)
    (hfit : a + bs.length ≤ n) : (m.writeString a bs).below n := by
  induction bs generalizing m a with
  | nil => exact h
  | cons b bs ih =>
    simp only [List.length_cons] at hfit
    exact ih (Memory.below_write h (by omega) b) (a + 1) (by omega)

/-- What stands in the buffer after a string was written at `a`. -/
theorem Memory.read_writeString {m : Memory} (h : m.wf) (a : Nat) (bs : List Byte) (p : Nat) :
    (m.writeString a bs).read p = if a ≤ p ∧ p < a + bs.length then bs.getD (p - a) unlistedChar else m.read p := by
  induction bs generalizing m a with
  | nil =>
    have h : ¬(a ≤ p ∧ p < a + ([] : List Byte).length) := by simp only [List.length_nil]; omega
    rw [if_neg h]
    rfl
  | cons b bs ih =>
    rw [Memory.writeString, ih (Memory.wf_write h a b), Memory.read_write h]
    simp only [List.length_cons]
    by_cases h1 : p = a
    · subst h1
      simp
    · by_cases h2 : a + 1 ≤ p ∧ p < a + 1 + bs.length
      · have h3 : a ≤ p ∧ p < a + (bs.length + 1) := by omega
        obtain ⟨q, rfl⟩ : ∃ q, p = a + 1 + q := ⟨p - (a + 1), by omega⟩
        rw [if_pos h2, if_pos h3, show a + 1 + q - (a + 1) = q by omega, show a + 1 + q - a = q + 1 by omega]
        simp
      · have h3 : ¬(a ≤ p ∧ p < a + (bs.length + 1)) := by omega
        rw [if_neg h2, if_neg h3, if_neg h1]

/-- The reset state's buffer is in canonical form. -/
theorem Memory.wf_reset : State.reset.ports.msg.wf := by decide

/-- The buffer a command line sets is in canonical form. -/
theorem Memory.wf_string (bs : List Byte) : (Memory.writeString [] 0 bs).wf := Memory.wf_writeString ⟨List.Pairwise.nil, by simp⟩ 0 bs

end Sys2Proof.Machine
end

