-- ==== Sys2Proof/Laws/PerInstr.lean ====
section
/-! SUPPORT. Statements for all commands, made per command. -/

namespace Sys2Proof.Laws.RowPattern

/-- A command's `OP` value belongs to its own row of the opcode table and to no other row (R81). -/
def Statement (i : Instr) : Prop :=
  (opRow i).matchesOp (encode i) = true ∧ ∀ j, opRow j ≠ opRow i → (opRow j).matchesOp (encode i) = false

/-- A row that is not row `k` does not match an `OP` value of row `k`: the rows are disjoint. -/
theorem disjoint (op : BitVec 4) (i j : Instr) (h : opRow j ≠ opRow i) (hi : (opRow i).matchesOp op = true) :
    (opRow j).matchesOp op = false := by
  cases i <;> cases j <;> first
    | exact absurd rfl h
    | (revert hi; simp only [opRow]; revert op; decide)

theorem decode : Statement .decode := ⟨by decide, fun j h => disjoint _ _ j h (by decide)⟩

theorem digit : Statement .digit := ⟨by decide, fun j h => disjoint _ _ j h (by decide)⟩

theorem hex : Statement .hex := ⟨by decide, fun j h => disjoint _ _ j h (by decide)⟩

theorem bcd : Statement .bcd := ⟨by decide, fun j h => disjoint _ _ j h (by decide)⟩

theorem ident : Statement .ident := ⟨by decide, fun j h => disjoint _ _ j h (by decide)⟩

theorem validate : Statement .validate := ⟨by decide, fun j h => disjoint _ _ j h (by decide)⟩

theorem tsum : Statement .tsum := ⟨by decide, fun j h => disjoint _ _ j h (by decide)⟩

theorem reserved7 : Statement .reserved7 := ⟨by decide, fun j h => disjoint _ _ j h (by decide)⟩

theorem reservedHigh (x : BitVec 3) : Statement (.reservedHigh x) := by
  have hx : (opRow (.reservedHigh x)).matchesOp (encode (.reservedHigh x)) = true := by
    revert x
    decide
  exact ⟨hx, fun j h => disjoint _ _ j h hx⟩

end Sys2Proof.Laws.RowPattern
end

