-- ==== Sys2Proof/Tests/Slice0.lean ====
section
/-! SUPPORT. The model's own tests. Expected values come from the spec: the vectors V-... of 95_test_vectors.md, or the rule
named. The second half gives, for every obligation with hypotheses, a concrete state that meets them (`witness_...`). -/

namespace Sys2Proof.Tests

open Sys2Proof Sys2Proof.Machine

/-! ### Helpers -/

/-- A string's characters as codes (R11). -/
def ascii (s : String) : List Byte := s.toList.map fun c => BitVec.ofNat 8 c.toNat

/-- The default instance with CRC enforcement (R8, R175). -/
def enforced : Config := { Config.default with crcEnforced := true }

/-- An instance whose host has just put a command line on the ports (R85). -/
def presents (i : Instr) (s : String) (len : Option Byte := none) (sum crc : Byte := 0) (cfg : Config := Config.default) : State :=
  { State.reset with cfg := cfg, ports := linePorts cfg (encode i) (ascii s) len (some sum) (some crc) }

/-- The register file a step leaves; `none` if it stops. -/
def regsAfter : Host.Outcome State Fault Refusal → Option OutRegs
  | .next t => some t.regs
  | .fault _ => none
  | .refused _ => none

/-- The status a step leaves. -/
def statusAfter (o : Host.Outcome State Fault Refusal) : Option StatusCode := (regsAfter o).map (·.status)

/-- A step that leaves registers answers a next state with them. -/
theorem next_of_regsAfter {o : Host.Outcome State Fault Refusal} {r : OutRegs} (h : regsAfter o = some r) :
    ∃ t, o = .next t ∧ t.regs = r := by
  cases o with
  | next t => exact ⟨t, rfl, by simpa [regsAfter] using h⟩
  | fault f => simp [regsAfter] at h
  | refused r => simp [regsAfter] at h

/-- A step that leaves a status answers a next state with it. -/
theorem next_of_statusAfter {o : Host.Outcome State Fault Refusal} {c : StatusCode} (h : statusAfter o = some c) :
    ∃ t, o = .next t ∧ t.regs.status = c := by
  cases o with
  | next t => exact ⟨t, rfl, by simpa [statusAfter, regsAfter] using h⟩
  | fault f => simp [statusAfter, regsAfter] at h
  | refused r => simp [statusAfter, regsAfter] at h

/-- The digits of a string, as a function of the position; 0 beyond its end and at a bad character. -/
def digits (s : String) (i : Nat) : Nibble := (((ascii s)[i]?).bind digitValue).getD 0

/-- V-DEC-1, the source's own Temp+Humidity capture. -/
def captureTH : String := "OSV2A1A2D1002502060552A4C"

/-- V-DEC-2, the spec's Temp-only capture. -/
def captureTO : String := "OSV2AEA4C208080224053"

/-- The register file after V-DEC-1. -/
def regsTH : OutRegs :=
  { OutRegs.reset with
    status := .ok, hasReading := true, valid := true, sensorClass := 1, subproto := 2, familyId := 0x1D20
    temp := 0x00CD, hasTemp := true, hum := 560, hasHum := true, hasBatt := true, channel := 1, hasChannel := true
    rolling := 0x20, sumCalc := 0x2A, sumTx := 0x2A, crcCalc := 0x4C, crcTx := 0x4C, crcPresent := true, crcMatch := true }

/-- The state V-RST-1 starts from: after V-DEC-1, with `RESET` now asserted. -/
def decodedThenReset : State :=
  { presents .decode captureTH with
    regs := regsTH
    ports := { linePorts Config.default 0 (ascii captureTH) none none none with reset := true } }

/-! ### Decoding: the words of R81 and R83, bit by bit -/

theorem test_word_decode : decodeTableWord 8 0b0000 = some .decode := by decide
theorem test_word_digit : decodeTableWord 8 0b0001 = some .digit := by decide
theorem test_word_hex : decodeTableWord 8 0b0010 = some .hex := by decide
theorem test_word_bcd : decodeTableWord 8 0b0011 = some .bcd := by decide
theorem test_word_ident : decodeTableWord 8 0b0100 = some .ident := by decide
theorem test_word_validate : decodeTableWord 8 0b0101 = some .validate := by decide
theorem test_word_tsum : decodeTableWord 8 0b0110 = some .tsum := by decide
theorem test_word_reserved7 : decodeTableWord 8 0b0111 = some .reserved7 := by decide
theorem test_word_reservedHigh : decodeTableWord 8 0b1000 = some (.reservedHigh 0b000)
    ∧ decodeTableWord 8 0b1101 = some (.reservedHigh 0b101) ∧ decodeTableWord 8 0b1111 = some (.reservedHigh 0b111) := by decide

/-- R84: a number with a bit above `OP[3:0]` is no command. -/
theorem test_word_too_wide : decodeWord 0b10000 = .error .widerThanOp ∧ decodeTableWord 8 0b11110001 = none := by decide

/-! ### Well-formedness: every check refuses something -/

theorem test_legal_default : Config.default.Legal ∧ enforced.Legal ∧ { Config.default with msgMax := 300 }.Legal := by decide

theorem test_illegal_msgMax : ¬ { Config.default with msgMax := 24 }.Legal := by decide

theorem test_illegal_channelMap : ¬ { Config.default with channelMap := Config.defaultChannelMap.set 1 2 }.Legal
    ∧ ¬ { Config.default with channelMap := Config.defaultChannelMap.set 2 1 }.Legal
    ∧ ¬ { Config.default with channelMap := Config.defaultChannelMap.set 4 4 }.Legal := by decide

theorem test_line_quote : (HostLine.command 1 [0x44, quoteChar] none none none).wf = false := by decide

set_option maxRecDepth 10000 in
theorem test_line_length : (HostLine.command 1 (List.replicate 255 0x44) none none none).wf = true
    ∧ (HostLine.command 1 (List.replicate 256 0x44) none none none).wf = false
    ∧ (HostLine.command 1 (List.replicate 256 0x44) (some 1) none none).wf = true := by decide

/-- The canonical form refuses positions out of order, a position listed twice, and a pair that says what is read anyway. -/
theorem test_memory_wf : Memory.wf [(0, 0x41), (3, 0x42)] ∧ ¬ Memory.wf [(3, 0x41), (0, 0x42)]
    ∧ ¬ Memory.wf [(3, 0x41), (3, 0x42)] ∧ ¬ Memory.wf [(3, 0x00)] := by decide

/-- A write of what an unlisted position holds removes the pair. -/
theorem test_memory_write_unlisted : Memory.write [(0, 0x41), (3, 0x42)] 3 0x00 = [(0, 0x41)]
    ∧ Memory.write [(0, 0x41)] 2 0x42 = [(0, 0x41), (2, 0x42)] := by decide

/-! ### One step of each command -/

/-- V-DIG-5. -/
theorem test_digit_letter : regsAfter (step (presents .digit "D")) = some { OutRegs.reset with status := .ok, result := 13 } := by
  decide

/-- V-DIG-8. -/
theorem test_digit_below_alphabet :
    regsAfter (step (presents .digit "/")) = some { OutRegs.reset with status := .invalidDigit } := by decide

/-- V-HEX-3. -/
theorem test_hex_order : regsAfter (step (presents .hex "1D20")) = some { OutRegs.reset with status := .ok, result := 0x1D20 } := by
  decide

/-- V-HEX-10: only `MSG[0..1]` is read. -/
theorem test_hex_length : regsAfter (step (presents .hex "ABCD" (some 2))) = some { OutRegs.reset with status := .ok, result := 0xAB } := by
  decide

/-- V-BCD-3. -/
theorem test_bcd_order : regsAfter (step (presents .bcd "502")) = some { OutRegs.reset with status := .ok, result := 502 } := by
  decide

/-- V-BCD-7. -/
theorem test_bcd_letter : regsAfter (step (presents .bcd "50A")) = some { OutRegs.reset with status := .invalidDigit } := by decide

set_option maxRecDepth 10000 in
/-- V-IDN-8: IDENT does not check the body length. -/
theorem test_ident_short_body : regsAfter (step (presents .ident "OSV2A1A2D100"))
    = some { OutRegs.reset with status := .ok, hasReading := true, sensorClass := 1, subproto := 2, familyId := 0x1D20 } := by
  decide

set_option maxRecDepth 10000 in
/-- V-IDN-11: the unknown ID stays readable. -/
theorem test_ident_unknown : regsAfter (step (presents .ident "OSV2A1A2D1102502060552A4C"))
    = some { OutRegs.reset with status := .unknownSubprotocol, hasReading := true, sensorClass := 1, familyId := 0x1D21 } := by
  decide

set_option maxRecDepth 10000 in
/-- V-VAL-9: a wrong CRC under enforcement. -/
theorem test_validate_enforced : regsAfter (step (presents .validate "1A2D100250206055" none 0x2A 0x4D enforced))
    = some { OutRegs.reset with status := .checksumMismatch, sumCalc := 0x2A, sumTx := 0x2A, crcCalc := 0x4C, crcTx := 0x4D,
                                crcPresent := true } := by
  decide

/-- V-VAL-3: `len = 2` reads position 0 alone. -/
theorem test_validate_two : regsAfter (step (presents .validate "A1" none 0x0A 0x00))
    = some { OutRegs.reset with status := .ok, sumCalc := 0x0A, sumTx := 0x0A, crcCalc := 0xF8, crcPresent := true } := by
  decide

set_option maxRecDepth 10000 in
/-- V-TS-5: positions 1 and 14 are not read. -/
theorem test_tsum_unread : regsAfter (step (presents .tsum "EZ4C2080802240Z3"))
    = some { OutRegs.reset with status := .ok, sumCalc := 0x34, sumTx := 0x34 } := by
  decide

set_option maxRecDepth 10000 in
/-- V-TS-7. -/
theorem test_tsum_mismatch : regsAfter (step (presents .tsum "EA4C208080224054"))
    = some { OutRegs.reset with status := .checksumMismatch, sumCalc := 0x34, sumTx := 0x44 } := by
  decide

set_option maxRecDepth 10000 in
/-- V-DEC-1. -/
theorem test_decode_capture : regsAfter (step (presents .decode captureTH)) = some regsTH := by decide

set_option maxRecDepth 10000 in
/-- V-DEC-23: a negative Temp-only Reading. -/
theorem test_decode_negative : regsAfter (step (presents .decode "OSV2AEA4C208030058853"))
    = some { OutRegs.reset with
              status := .ok, hasReading := true, valid := true, sensorClass := 1, subproto := 1, familyId := 0xEC40
              temp := 0xFFCB, tempNeg := true, hasTemp := true, hasBatt := true, channel := 2, hasChannel := true
              rolling := 0x08, sumCalc := 0x38, sumTx := 0x38 } := by
  decide

/-- V-ILL-1. -/
theorem test_reserved7 : regsAfter (step (presents .reserved7 "")) = some { OutRegs.reset with status := .illegalOp } := by decide

/-- V-ILL-2. -/
theorem test_reservedHigh :
    regsAfter (step (presents (.reservedHigh 7) captureTH)) = some { OutRegs.reset with status := .illegalOp } := by decide

/-! ### Reset, the read port, a placed word -/

/-- V-RST-1. -/
theorem test_reset_step : regsAfter (step decodedThenReset) = some { OutRegs.reset with status := .idle } := by decide

/-- V-RST-3, and P1's lines 3, 4, 7 and 8 over the registers of V-DEC-1. -/
theorem test_read_port : State.reset.regs.readPort 0x00 = 7 ∧ State.reset.regs.readPort 0x17 = 0
    ∧ regsTH.readPort 0x05 = 2 ∧ regsTH.readPort 0x06 = 0x1D20 ∧ regsTH.readPort 0x07 = 0xCD ∧ regsTH.readPort 0x0A = 0x230 := by
  decide

/-- R176: a word placed as the first command after reset runs; with every port at rest VALIDATE is V-VAL-2 with `ARG_CRC = 0`. -/
theorem test_first_command : regsAfter (step (State.reset.withFetchWord 8 5))
    = some { OutRegs.reset with status := .ok, crcCalc := 0x2C, crcPresent := true } := by
  decide

/-- V-RST-3 as a host program: reset, then two reads. -/
theorem test_program : (match runProgram State.reset [.reset, .read 0x00, .read 0x17] with
      | .next (_, vs) => vs
      | .fault _ => []
      | .refused _ => []) = [7, 0] := by
  decide

/-- R85, R240, V-RST-1: a `RESET` line after V-DEC-1 clears the registers that line left. -/
theorem test_reset_line : (match runLine { State.reset with regs := regsTH } .reset with
      | .next (t, none) => some t.regs
      | .next (_, some _) => none
      | .fault _ => none
      | .refused _ => none) = some { OutRegs.reset with status := .idle } := by
  decide

/-- P1's order of reads, over the registers of V-DEC-1: `TEMP`, then `HUM`, then `CHANNEL`. -/
theorem test_program_order :
    (match runProgram { State.reset with regs := regsTH } [.read 0x07, .read 0x0A, .read 0x0E] with
      | .next (_, vs) => vs
      | .fault _ => []
      | .refused _ => []) = [0xCD, 0x230, 1] := by
  decide

/-! ### Witnesses: the hypotheses of the obligations can be met -/

theorem witness_StepPerformsThePresentedCommand :
    ((presents .digit "D").ports.reset = false
      ∧ decodeTableWord 8 (presents .digit "D").ports.op.toNat = some .digit)
    ∧ decodeTableWord 8 0 = some .decode ∧ decodeTableWord 8 15 = some (.reservedHigh 7) := by decide

theorem witness_ResetRestoresEveryRegister : decodedThenReset.ports.reset = true ∧ decodedThenReset.regs ≠ OutRegs.reset := by decide

theorem witness_PowerUpIsTheResetState : decodedThenReset.ports.reset = true ∧ (0x00 : Byte) ≠ 0x01 := by decide

theorem witness_ReadPortShowsEachRegister : 0x17 ≤ (0x17 : Byte).toNat ∧ 0x17 ≤ (0xFF : Byte).toNat := by decide

set_option maxRecDepth 10000 in
/-- With and without `len=`, at both ends of what a line can spell. -/
theorem witness_CommandLineDrivesThePorts : (HostLine.command 0 [] none none none).wf = true
    ∧ (HostLine.command 5 (ascii "A1") (some 0xFF) (some 0x0A) (some 0x4C)).wf = true
    ∧ (HostLine.command 15 (List.replicate 255 0x41) none none none).wf = true
    ∧ ∃ t, step (State.reset.setPorts (linePorts Config.default 0 [] none none none)) = .next t :=
  ⟨by decide, by decide, by decide, by
    obtain ⟨t, ht, -⟩ := next_of_statusAfter
      (show statusAfter (step (State.reset.setPorts (linePorts Config.default 0 [] none none none))) = some .noDecoder by decide)
    exact ⟨t, ht⟩⟩

/-- Both ranges of R100 at both ends. -/
theorem witness_DigitValueMapsTheAlphabet : digitValue 0x30 = some 0 ∧ digitValue 0x39 = some 9 ∧ digitValue 0x41 = some 10
    ∧ digitValue 0x46 = some 15 := by decide

theorem witness_HexValueIsTheBase16Number : ([] : List Byte).map digitValue = ([] : List Nibble).map some
    ∧ (ascii "1D20").map digitValue = ([1, 13, 2, 0] : List Nibble).map some
    ∧ ∃ c ∈ ascii "12G4", digitValue c = none := by decide

theorem witness_BcdDecimalIsTheDecimalNumber :
    ((ascii "502").map digitValue = ([5, 0, 2] : List Nibble).map some ∧ ∀ d ∈ ([5, 0, 2] : List Nibble), d.toNat < 10)
    ∧ (∃ c ∈ ascii "50A", ∀ d, digitValue c = some d → 10 ≤ d.toNat)
    ∧ ∃ c ∈ ascii "5:0", ∀ d, digitValue c = some d → 10 ≤ d.toNat := by decide

theorem witness_DigitConvertsOneCharacter : Config.default.Legal ∧ (presents .digit "D" (some 0)).msgDigit 0 = some 13
    ∧ (presents .digit "G").msgDigit 0 = none := by decide

theorem witness_HexParsesUpToFourDigits : Config.default.Legal ∧ 4 < (presents .hex "12345").msgLength
    ∧ ((presents .hex "FFFF").msgLength ≤ 4
        ∧ (List.range (presents .hex "FFFF").msgLength).map (presents .hex "FFFF").msgDigit
            = ([15, 15, 15, 15] : List Nibble).map some)
    ∧ ((presents .hex "").msgLength ≤ 4
        ∧ (List.range (presents .hex "").msgLength).map (presents .hex "").msgDigit = ([] : List Nibble).map some)
    ∧ ((presents .hex "123g").msgLength ≤ 4 ∧ 3 < (presents .hex "123g").msgLength ∧ (presents .hex "123g").msgDigit 3 = none) := by
  decide

theorem witness_BcdConvertsUpToFourDigits : Config.default.Legal ∧ 4 < (presents .bcd "12345").msgLength
    ∧ ((presents .bcd "9999").msgLength ≤ 4
        ∧ (List.range (presents .bcd "9999").msgLength).map (presents .bcd "9999").msgDigit
            = ([9, 9, 9, 9] : List Nibble).map some
        ∧ ∀ d ∈ ([9, 9, 9, 9] : List Nibble), d.toNat < 10)
    ∧ ((presents .bcd "0A").msgLength ≤ 4 ∧ 1 < (presents .bcd "0A").msgLength
        ∧ ∀ d, (presents .bcd "0A").msgDigit 1 = some d → 10 ≤ d.toNat) := by
  decide

set_option maxRecDepth 10000 in
/-- Every case of IDENT, the lengths at their boundaries 4, 5, 11 and 12. -/
theorem witness_IdentSelectsTheSubProtocol : Config.default.Legal
    ∧ (presents .ident "OSV2").msgLength ≤ 4 ∧ ¬ (presents .ident "osv2A1A2D100").HeaderMatches
    ∧ (4 < (presents .ident "OSV2A").msgLength ∧ (presents .ident "OSV2A").HeaderMatches
        ∧ (presents .ident "OSV2A").msgLength ≤ 11)
    ∧ (4 < (presents .ident "OSV2A1A2D10").msgLength ∧ (presents .ident "OSV2A1A2D10").HeaderMatches
        ∧ (presents .ident "OSV2A1A2D10").msgLength ≤ 11)
    ∧ (11 < (presents .ident "OSV2A1A2D1G0").msgLength ∧ (presents .ident "OSV2A1A2D1G0").HeaderMatches
        ∧ ∃ p ∈ [5, 8, 7, 10], (presents .ident "OSV2A1A2D1G0").msgDigit p = none)
    ∧ (11 < (presents .ident "OSV2A1A2D100").msgLength ∧ (presents .ident "OSV2A1A2D100").HeaderMatches
        ∧ (presents .ident "OSV2A1A2D100").msgDigit 5 = some 1 ∧ (presents .ident "OSV2A1A2D100").msgDigit 8 = some 13
        ∧ (presents .ident "OSV2A1A2D100").msgDigit 7 = some 2 ∧ (presents .ident "OSV2A1A2D100").msgDigit 10 = some 0) := by
  decide

/-- The digits of a Temp-only body that DECODE reads. -/
abbrev BodyTO (s : State) (d : Nat → Nibble) : Prop :=
  s.cfg.Legal ∧ s.msgLength = 21 ∧ s.HeaderMatches
    ∧ (∀ i ∈ [0, 2, 3, 4, 5, 6, 7, 8, 9, 10, 11, 12, 13, 15], s.bodyDigit i = some (d i))
    ∧ d 0 = 0xE ∧ d 3 = 0xC ∧ d 2 = 0x4 ∧ d 5 = 0x0 ∧ ∀ i ∈ [8, 10, 11], (d i).toNat < 10

/-- The digits of a Temp+Humidity body that DECODE reads. -/
abbrev BodyTH (s : State) (d : Nat → Nibble) : Prop :=
  s.cfg.Legal ∧ s.msgLength = 25 ∧ s.HeaderMatches
    ∧ (∀ i, i < 20 → i ≠ 1 → s.bodyDigit i = some (d i))
    ∧ d 0 = 0x1 ∧ d 3 = 0xD ∧ d 2 = 0x2 ∧ d 5 = 0x0 ∧ ∀ i ∈ [8, 10, 11, 12, 15], (d i).toNat < 10

set_option maxRecDepth 10000 in
/-- V-DEC-21: the unread positions hold no digit. -/
theorem witness_DecodeAcceptsATempOnlyMessage : BodyTO (presents .decode "OSV2AEZ4C2080802240Z3") (digits "EZ4C2080802240Z3")
    ∧ tempOnlyDigitSum (digits "EZ4C2080802240Z3")
        = 16 * (digits "EZ4C2080802240Z3" 15).toNat + (digits "EZ4C2080802240Z3" 12).toNat := by decide

set_option maxRecDepth 10000 in
/-- V-DEC-22. -/
theorem witness_DecodeRejectsAWrongTempOnlyChecksum : BodyTO (presents .decode "OSV2AEA4C208080225053") (digits "EA4C208080225053")
    ∧ tempOnlyDigitSum (digits "EA4C208080225053")
        ≠ 16 * (digits "EA4C208080225053" 15).toNat + (digits "EA4C208080225053" 12).toNat := by decide

set_option maxRecDepth 10000 in
/-- V-DEC-1 under enforcement, V-DEC-10 without. -/
theorem witness_DecodeAcceptsATempHumMessage :
    (BodyTH (presents .decode captureTH none 0 0 enforced) (digits "1A2D1002502060552A4C")
      ∧ spanDigitSum 16 (digits "1A2D1002502060552A4C")
          = 16 * (digits "1A2D1002502060552A4C" 16).toNat + (digits "1A2D1002502060552A4C" 17).toNat
      ∧ bodyOrderCrc (digits "1A2D1002502060552A4C") = digits "1A2D1002502060552A4C" 18 ++ digits "1A2D1002502060552A4C" 19)
    ∧ BodyTH (presents .decode "OSV2A1A2D1002502060552A4D") (digits "1A2D1002502060552A4D")
      ∧ spanDigitSum 16 (digits "1A2D1002502060552A4D")
          = 16 * (digits "1A2D1002502060552A4D" 16).toNat + (digits "1A2D1002502060552A4D" 17).toNat
      ∧ Config.default.crcEnforced ≠ true := by decide

set_option maxRecDepth 10000 in
/-- V-DEC-12 (a wrong checksum) and V-DEC-11 (a wrong CRC under enforcement). -/
theorem witness_DecodeRejectsAFailedTempHumCheck :
    (BodyTH (presents .decode "OSV2A1A2D1002502060552B4C") (digits "1A2D1002502060552B4C")
      ∧ spanDigitSum 16 (digits "1A2D1002502060552B4C")
          ≠ 16 * (digits "1A2D1002502060552B4C" 16).toNat + (digits "1A2D1002502060552B4C" 17).toNat)
    ∧ BodyTH (presents .decode "OSV2A1A2D1002502060552A4D" none 0 0 enforced) (digits "1A2D1002502060552A4D")
      ∧ enforced.crcEnforced = true
      ∧ bodyOrderCrc (digits "1A2D1002502060552A4D") ≠ digits "1A2D1002502060552A4D" 18 ++ digits "1A2D1002502060552A4D" 19 := by
  decide

set_option maxRecDepth 10000 in
/-- IDENT fails; IDENT succeeds and the body is one short, for each sub-protocol. -/
theorem witness_DecodeSelectsAsIdentDoes :
    (∃ t, exec .ident (presents .decode "OSV2") = .next t ∧ t.regs.status ≠ .ok)
    ∧ (∃ t, exec .ident (presents .decode "OSV2A1A2D1002502060552A4") = .next t ∧ t.regs.status = .ok ∧ t.regs.subproto = 2
        ∧ (presents .decode "OSV2A1A2D1002502060552A4").msgLength ≠ 25)
    ∧ ∃ t, exec .ident (presents .decode "OSV2AEA4C20808022405") = .next t ∧ t.regs.status = .ok ∧ t.regs.subproto = 1
        ∧ (presents .decode "OSV2AEA4C20808022405").msgLength ≠ 21 := by
  refine ⟨?_, ?_, ?_⟩
  · obtain ⟨t, ht, hs⟩ := next_of_statusAfter
      (show statusAfter (exec .ident (presents .decode "OSV2")) = some .noDecoder by decide)
    exact ⟨t, ht, by simp [hs]⟩
  · obtain ⟨t, ht, hr⟩ := next_of_regsAfter
      (show regsAfter (exec .ident (presents .decode "OSV2A1A2D1002502060552A4")) = some
        { OutRegs.reset with status := .ok, hasReading := true, sensorClass := 1, subproto := 2, familyId := 0x1D20 } by decide)
    exact ⟨t, ht, by simp [hr], by simp [hr], by decide⟩
  · obtain ⟨t, ht, hr⟩ := next_of_regsAfter
      (show regsAfter (exec .ident (presents .decode "OSV2AEA4C20808022405")) = some
        { OutRegs.reset with status := .ok, hasReading := true, sensorClass := 1, subproto := 1, familyId := 0xEC40 } by decide)
    exact ⟨t, ht, by simp [hr], by simp [hr], by decide⟩

set_option maxRecDepth 10000 in
/-- V-DEC-14 (a character that is no digit), V-DEC-18 (a humidity digit of 10), and a Temp-only temperature digit of 10. -/
theorem witness_DecodeRejectsABadDigit :
    ((∃ t, exec .ident (presents .decode "OSV2A1A2D1002502060G52A4C") = .next t ∧ t.regs.status = .ok ∧ t.regs.subproto = 2)
      ∧ (presents .decode "OSV2A1A2D1002502060G52A4C").bodyDigit 14 = none)
    ∧ ((∃ t, exec .ident (presents .decode "OSV2A1A2D10025020605A2F92") = .next t ∧ t.regs.status = .ok ∧ t.regs.subproto = 2)
      ∧ (presents .decode "OSV2A1A2D10025020605A2F92").bodyDigit 15 = some 10)
    ∧ ((∃ t, exec .ident (presents .decode "OSV2AEA4C2080A0224053") = .next t ∧ t.regs.status = .ok ∧ t.regs.subproto = 1)
      ∧ (presents .decode "OSV2AEA4C2080A0224053").msgLength = 21
      ∧ (presents .decode "OSV2AEA4C2080A0224053").bodyDigit 8 = some 10) := by
  refine ⟨⟨?_, by decide⟩, ⟨?_, by decide⟩, ?_, by decide, by decide⟩
  · obtain ⟨t, ht, hr⟩ := next_of_regsAfter
      (show regsAfter (exec .ident (presents .decode "OSV2A1A2D1002502060G52A4C")) = some
        { OutRegs.reset with status := .ok, hasReading := true, sensorClass := 1, subproto := 2, familyId := 0x1D20 } by decide)
    exact ⟨t, ht, by simp [hr], by simp [hr]⟩
  · obtain ⟨t, ht, hr⟩ := next_of_regsAfter
      (show regsAfter (exec .ident (presents .decode "OSV2A1A2D10025020605A2F92")) = some
        { OutRegs.reset with status := .ok, hasReading := true, sensorClass := 1, subproto := 2, familyId := 0x1D20 } by decide)
    exact ⟨t, ht, by simp [hr], by simp [hr]⟩
  · obtain ⟨t, ht, hr⟩ := next_of_regsAfter
      (show regsAfter (exec .ident (presents .decode "OSV2AEA4C2080A0224053")) = some
        { OutRegs.reset with status := .ok, hasReading := true, sensorClass := 1, subproto := 1, familyId := 0xEC40 } by decide)
    exact ⟨t, ht, by simp [hr], by simp [hr]⟩

set_option maxRecDepth 10000 in
/-- V-DEC-1: DECODE ends with OK, and what it leaves is known. -/
theorem decode_captureTH (cfg : Config) (h : cfg = Config.default ∨ cfg = enforced) :
    ∃ t, exec .decode (presents .decode captureTH none 0 0 cfg) = .next t ∧ t.regs = regsTH := by
  rcases h with rfl | rfl
  · exact next_of_regsAfter (by decide)
  · exact next_of_regsAfter (by decide)

set_option maxRecDepth 10000 in
/-- V-DEC-2. -/
theorem decode_captureTO : ∃ t, exec .decode (presents .decode captureTO) = .next t ∧ t.regs.status = .ok :=
  next_of_statusAfter (by decide)

set_option maxRecDepth 10000 in
/-- Raw channels 1, 2 and 4 (V-DEC-1, V-DEC-2, V-DEC-6), both sub-protocols. -/
theorem witness_AcceptedReadingMatchesTheWire :
    (Config.default.Legal ∧ ∃ t, exec .decode (presents .decode captureTH) = .next t ∧ t.regs.status = .ok ∧ t.regs.subproto = 2)
    ∧ (∃ t, exec .decode (presents .decode captureTO) = .next t ∧ t.regs.status = .ok ∧ t.regs.subproto = 1)
    ∧ (∃ t, exec .decode (presents .decode "OSV2A1A2D400254206055313A") = .next t ∧ t.regs.status = .ok)
    ∧ (presents .decode captureTH).bodyDigit 4 = some 1 ∧ (presents .decode captureTO).bodyDigit 4 = some 2
    ∧ (presents .decode "OSV2A1A2D400254206055313A").bodyDigit 4 = some 4 := by
  refine ⟨⟨by decide, ?_⟩, ?_, next_of_statusAfter (by decide), by decide, by decide, by decide⟩
  · obtain ⟨t, ht, hr⟩ := decode_captureTH _ (.inl rfl)
    exact ⟨t, ht, by simp [hr, regsTH], by simp [hr, regsTH]⟩
  · obtain ⟨t, ht, hr⟩ := next_of_regsAfter
      (show regsAfter (exec .decode (presents .decode captureTO)) = some
        { OutRegs.reset with
          status := .ok, hasReading := true, valid := true, sensorClass := 1, subproto := 1, familyId := 0xEC40
          temp := 0x00E4, hasTemp := true, hasBatt := true, channel := 2, hasChannel := true
          rolling := 0x08, sumCalc := 0x34, sumTx := 0x34 } by decide)
    exact ⟨t, ht, by simp [hr], by simp [hr]⟩

theorem witness_OnlyTwoMessageLengthsDecode : Config.default.Legal
    ∧ (∃ t, exec .decode (presents .decode captureTH) = .next t ∧ t.regs.status = .ok)
    ∧ ∃ t, exec .decode (presents .decode captureTO) = .next t ∧ t.regs.status = .ok := by
  obtain ⟨t, ht, hr⟩ := decode_captureTH _ (.inl rfl)
  exact ⟨by decide, ⟨t, ht, by simp [hr, regsTH]⟩, decode_captureTO⟩

/-- A valid Temp+Humidity Reading under enforcement. -/
theorem witness_ValidExactlyWhenDecodeSucceeds : enforced.Legal ∧ enforced.crcEnforced = true
    ∧ ∃ t, exec .decode (presents .decode captureTH none 0 0 enforced) = .next t ∧ t.regs.valid = true ∧ t.regs.subproto = 2 := by
  obtain ⟨t, ht, hr⟩ := decode_captureTH _ (.inr rfl)
  exact ⟨by decide, by decide, t, ht, by simp [hr, regsTH], by simp [hr, regsTH]⟩

/-- Other characters at one position, everywhere else the same. -/
theorem read_changed (i : Instr) (s : String) (sum crc : Byte) (cfg : Config) (p q : Nat) (c : Byte) (h : q ≠ p) :
    ((presents i s none sum crc cfg).ports.msg.write p c).read q = (presents i s none sum crc cfg).msgChar q :=
  (Memory.read_write (Memory.wf_string _) p c q).trans (if_neg h)

set_option maxRecDepth 10000 in
/-- All four checksum positions (V-SRC-6). -/
theorem witness_CorruptedChecksumDigitIsRejected :
    (∃ t, exec .decode (presents .decode captureTO) = .next t ∧ t.regs.status = .ok)
    ∧ (∃ t, exec .decode (presents .decode captureTH) = .next t ∧ t.regs.status = .ok)
    ∧ (presents .decode captureTO).msgLength = 21 ∧ (presents .decode captureTH).msgLength = 25
    ∧ (∀ q, q ≠ 17 → ((presents .decode captureTO).ports.msg.write 17 0x35).read q = (presents .decode captureTO).msgChar q)
    ∧ (∀ q, q ≠ 21 → ((presents .decode captureTH).ports.msg.write 21 0x33).read q = (presents .decode captureTH).msgChar q)
    ∧ digitValue (((presents .decode captureTO).ports.msg.write 17 0x35).read 17) = some 5
    ∧ digitValue (((presents .decode captureTO).ports.msg.write 20 0x46).read 20) = some 15
    ∧ digitValue (((presents .decode captureTH).ports.msg.write 21 0x33).read 21) = some 3
    ∧ digitValue (((presents .decode captureTH).ports.msg.write 22 0x42).read 22) = some 11
    ∧ (presents .decode captureTO).msgDigit 17 ≠ some 5 ∧ (presents .decode captureTO).msgDigit 20 ≠ some 15
    ∧ (presents .decode captureTH).msgDigit 21 ≠ some 3 ∧ (presents .decode captureTH).msgDigit 22 ≠ some 11 := by
  obtain ⟨t, ht, hr⟩ := decode_captureTH _ (.inl rfl)
  exact ⟨decode_captureTO, ⟨t, ht, by simp [hr, regsTH]⟩, by decide, by decide, fun q h => read_changed _ _ _ _ _ _ q _ h,
    fun q h => read_changed _ _ _ _ _ _ q _ h, by decide, by decide, by decide, by decide, by decide, by decide, by decide, by decide⟩

theorem witness_WorkingCopySwapsNeighbours : (ascii "1A2D").length % 2 = 0 ∧ 3 < (ascii "1A2D").length ∧ ([] : List Byte).length % 2 = 0 := by
  decide

set_option maxRecDepth 10000 in
/-- V-VAL-6's span: position 1 holds no digit. -/
theorem witness_CrcWalkInBodyOrder : (ascii "1G2D100250206055").length = 16
    ∧ ∀ i, i < 16 → i ≠ 1 → (ascii "1G2D100250206055")[i]?.bind digitValue = some (digits "1G2D100250206055" i) := by decide

set_option maxRecDepth 10000 in
/-- Too long, odd, a bad digit at the last position, and the spans of 0, 2 and 24 characters. -/
theorem witness_ValidateChecksTheSpan : Config.default.Legal
    ∧ Config.default.msgMax < (presents .validate "" (some 26)).msgLength ∧ (presents .validate "A").msgLength % 2 = 1
    ∧ ((presents .validate "1AG").msgLength % 2 = 1 ∧ (presents .validate "1A2G").msgLength % 2 = 0
        ∧ 3 < (presents .validate "1A2G").msgLength ∧ (presents .validate "1A2G").msgDigit 3 = none)
    ∧ ((presents .validate "").msgLength % 2 = 0 ∧ (presents .validate "").msgLength = 0)
    ∧ ((presents .validate "A1").msgLength = 2 ∧ (presents .validate "A1").msgDigit 0 = some (digits "A1" 0))
    ∧ (presents .validate "FFFFFFFFFFFFFFFFFFFFFFFF").msgLength = 24
    ∧ ∀ i, i < 24 → i ≠ 1 →
        (presents .validate "FFFFFFFFFFFFFFFFFFFFFFFF").msgDigit i = some (digits "FFFFFFFFFFFFFFFFFFFFFFFF" i) := by decide

set_option maxRecDepth 10000 in
/-- A change of the first and of the last digit of V-VAL-1's span. -/
theorem witness_CrcDetectsAnySingleDigitChange :
    (∀ q, q ≠ 15 → ((presents .validate "1A2D100250206055" none 0x2A 0x4C).ports.msg.write 15 0x36).read q
        = (presents .validate "1A2D100250206055" none 0x2A 0x4C).msgChar q)
    ∧ 15 < (presents .validate "1A2D100250206055" none 0x2A 0x4C).msgLength
    ∧ (presents .validate "1A2D100250206055" none 0x2A 0x4C).msgDigit 15 = some 5
    ∧ digitValue (((presents .validate "1A2D100250206055" none 0x2A 0x4C).ports.msg.write 15 0x36).read 15) = some 6
    ∧ (presents .validate "1A2D100250206055" none 0x2A 0x4C).msgDigit 0 = some 1
    ∧ (∃ t, exec .validate (presents .validate "1A2D100250206055" none 0x2A 0x4C) = .next t ∧ t.regs.crcPresent = true)
    ∧ ∃ u, exec .validate ((presents .validate "1A2D100250206055" none 0x2A 0x4C).withMsg
        ((presents .validate "1A2D100250206055" none 0x2A 0x4C).ports.msg.write 15 0x36)) = .next u
        ∧ u.regs.status = .checksumMismatch := by
  refine ⟨fun q h => read_changed _ _ _ _ _ _ q _ h, by decide, by decide, by decide, by decide, ?_, next_of_statusAfter (by decide)⟩
  obtain ⟨t, ht, hr⟩ := next_of_regsAfter
    (show regsAfter (exec .validate (presents .validate "1A2D100250206055" none 0x2A 0x4C)) = some
      { OutRegs.reset with status := .ok, sumCalc := 0x2A, sumTx := 0x2A, crcCalc := 0x4C, crcTx := 0x4C, crcPresent := true,
                           crcMatch := true } by decide)
  exact ⟨t, ht, by simp [hr]⟩

set_option maxRecDepth 10000 in
theorem witness_TsumChecksATempOnlyBody : Config.default.Legal ∧ (presents .tsum "EA4C20808022405").msgLength ≠ 16
    ∧ ((presents .tsum "EA4C2080802240GG").msgLength = 16 ∧ (presents .tsum "EA4C2080802240GG").msgDigit 15 = none)
    ∧ (presents .tsum "EZ4C2080802240Z3").msgLength = 16
    ∧ ∀ i, i < 16 → i ≠ 1 → i ≠ 14 → (presents .tsum "EZ4C2080802240Z3").msgDigit i = some (digits "EZ4C2080802240Z3" i) := by
  decide

theorem witness_ReservedEncodingsReportIllegalOp :
    ((presents .reserved7 "").ports.reset = false ∧ 7 ≤ (presents .reserved7 "").ports.op.toNat)
    ∧ (presents (.reservedHigh 7) "").ports.reset = false ∧ 7 ≤ (presents (.reservedHigh 7) "").ports.op.toNat := by decide

theorem witness_EveryCommandCompletes : Config.default.Legal ∧ (presents .decode "").cfg.Legal := by decide

theorem witness_CommandsChangeOnlyTheRegisterFile : ∃ t, exec .decode (presents .decode captureTH) = .next t ∧ t.regs = regsTH :=
  decode_captureTH _ (.inl rfl)

theorem witness_CommandsForgetEarlierRegisters : ∃ t, exec .decode (presents .decode captureTH) = .next t ∧ t.regs = regsTH :=
  decode_captureTH _ (.inl rfl)

/-- The hypotheses of UnreadCharactersHaveNoEffect, for the message `str` and the same message with 'Z' at position `p`, where
the command ends with the status `c`. -/
abbrev MeetsUnread (i : Instr) (str : String) (p : Nat) (c : StatusCode) : Prop :=
  (presents i str).cfg.Legal
    ∧ (∀ q, MayRead (presents i str).cfg.msgMax (presents i str).msgLength i q →
        ((presents i str).ports.msg.write p 0x5A).read q = (presents i str).msgChar q)
    ∧ ∃ t, exec i (presents i str) = .next t ∧ t.regs.status = c

/-- They are met where the command does not read position `p` at this length. -/
theorem meetsUnread (i : Instr) (str : String) (p : Nat) (c : StatusCode)
    (h : ¬ MayRead 25 (presents i str).msgLength i p) (hs : statusAfter (exec i (presents i str)) = some c) :
    MeetsUnread i str p c :=
  ⟨test_legal_default.1, fun q hq => read_changed i str 0 0 Config.default p q 0x5A fun e => h (e ▸ hq), next_of_statusAfter hs⟩

set_option maxRecDepth 10000 in
/-- For each command, at a position it does not read: DECODE at `pt[14]` of a Temp-only message (V-DEC-21), at the sync of a
Temp+Humidity message (V-DEC-16) and inside the fields of a message one short (V-DEC-19); DIGIT after its character; HEX and BCD at
length 5 (V-HEX-9, V-BCD-9); IDENT behind the ID; VALIDATE at position 1 and at an odd length; TSUM at position 14 and at length
15; the reserved encodings anywhere. -/
theorem witness_UnreadCharactersHaveNoEffect : MeetsUnread .decode captureTO 19 .ok
    ∧ MeetsUnread .decode captureTH 4 .ok
    ∧ MeetsUnread .decode "OSV2A1A2D1002502060552A4" 20 .malformedLength
    ∧ MeetsUnread .digit "D" 1 .ok
    ∧ MeetsUnread .hex "12345" 0 .malformedLength
    ∧ MeetsUnread .bcd "12345" 4 .malformedLength
    ∧ MeetsUnread .ident "OSV2A1A2D100" 11 .ok
    ∧ MeetsUnread .validate "1A2D" 1 .checksumMismatch
    ∧ MeetsUnread .validate "1A2" 0 .malformedLength
    ∧ MeetsUnread .tsum "EA4C208080224053" 14 .ok
    ∧ MeetsUnread .tsum "EA4C20808022405" 0 .malformedLength
    ∧ MeetsUnread .reserved7 "A" 0 .illegalOp
    ∧ MeetsUnread (.reservedHigh 0) "A" 0 .illegalOp :=
  ⟨meetsUnread _ _ _ _ (by unfold MayRead SelectorReads; decide) (by decide),
    meetsUnread _ _ _ _ (by unfold MayRead SelectorReads; decide) (by decide),
    meetsUnread _ _ _ _ (by unfold MayRead SelectorReads; decide) (by decide),
    meetsUnread _ _ _ _ (by unfold MayRead; decide) (by decide),
    meetsUnread _ _ _ _ (by unfold MayRead; decide) (by decide),
    meetsUnread _ _ _ _ (by unfold MayRead; decide) (by decide),
    meetsUnread _ _ _ _ (by unfold MayRead SelectorReads; decide) (by decide),
    meetsUnread _ _ _ _ (by unfold MayRead; decide) (by decide),
    meetsUnread _ _ _ _ (by unfold MayRead; decide) (by decide),
    meetsUnread _ _ _ _ (by unfold MayRead; decide) (by decide),
    meetsUnread _ _ _ _ (by unfold MayRead; decide) (by decide),
    meetsUnread _ _ _ _ (by unfold MayRead; decide) (by decide),
    meetsUnread _ _ _ _ (by unfold MayRead; decide) (by decide)⟩

theorem witness_IgnoredPortsHaveNoEffect : (Instr.decode ≠ .validate
      ∧ ∃ t, exec .decode (presents .decode captureTO) = .next t ∧ t.regs.status = .ok)
    ∧ ∃ t, exec .digit (presents .digit "D") = .next t ∧ t.regs.status = .ok :=
  ⟨⟨by decide, decode_captureTO⟩, next_of_statusAfter (by decide)⟩

set_option maxRecDepth 10000 in
/-- The three codes the statement tells apart, and another. -/
theorem witness_FailureLeavesNoPartialResult : Config.default.Legal
    ∧ (∃ t, exec .decode (presents .decode "OSV2") = .next t ∧ t.regs.status = .noDecoder)
    ∧ (∃ t, exec .ident (presents .ident "OSV2A1A2D1102502060552A4C") = .next t ∧ t.regs.status = .unknownSubprotocol)
    ∧ (∃ t, exec .tsum (presents .tsum "EA4C208080224054") = .next t ∧ t.regs.status = .checksumMismatch)
    ∧ ∃ t, exec .hex (presents .hex "12G4") = .next t ∧ t.regs.status = .invalidDigit :=
  ⟨by decide, next_of_statusAfter (by decide), next_of_statusAfter (by decide), next_of_statusAfter (by decide),
    next_of_statusAfter (by decide)⟩

set_option maxRecDepth 10000 in
/-- A step to a valid Reading, and one to the reset values. -/
theorem witness_RegisterFileIsConsistent : Config.default.Legal
    ∧ (∃ t, step (presents .decode captureTH) = .next t ∧ t.regs = regsTH)
    ∧ ∃ t, step decodedThenReset = .next t ∧ t.regs.valid = false :=
  ⟨by decide, next_of_regsAfter (by decide), _, rfl, by decide⟩

set_option maxRecDepth 10000 in
theorem witness_RegistersStayInTheirLegalRange : Config.default.Legal
    ∧ ∃ t, step (presents .decode captureTH) = .next t ∧ t.regs = regsTH := ⟨by decide, next_of_regsAfter (by decide)⟩

set_option maxRecDepth 10000 in
/-- Not enforced: V-DEC-1 with its last CRC digit changed (V-DEC-10), and V-VAL-1. Enforced: V-DEC-1. -/
theorem witness_CrcGatesOnlyWhenEnforced :
    (Config.default.crcEnforced = false ∧ (presents .decode captureTH).msgLength = 25
      ∧ (∀ q, q ≠ 23 → q ≠ 24 →
          ((presents .decode captureTH).ports.msg.write 24 0x44).read q = (presents .decode captureTH).msgChar q)
      ∧ (presents .decode captureTH).msgDigit 23 ≠ none ∧ (presents .decode captureTH).msgDigit 24 ≠ none
      ∧ digitValue (((presents .decode captureTH).ports.msg.write 24 0x44).read 23) ≠ none
      ∧ digitValue (((presents .decode captureTH).ports.msg.write 24 0x44).read 24) ≠ none
      ∧ ∃ t, exec .decode (presents .decode captureTH) = .next t ∧ t.regs = regsTH)
    ∧ (∃ t, exec .validate (presents .validate "1A2D100250206055" none 0x2A 0x4C) = .next t ∧ t.regs.status = .ok)
    ∧ enforced.Legal ∧ enforced.crcEnforced = true
    ∧ ∃ t, exec .decode (presents .decode captureTH none 0 0 enforced) = .next t ∧ t.regs.status = .ok ∧ t.regs.crcPresent = true := by
  obtain ⟨t, ht, hr⟩ := decode_captureTH _ (.inr rfl)
  exact ⟨⟨by decide, by decide, fun q _ h => read_changed _ _ _ _ _ _ q _ h, by decide, by decide, by decide, by decide,
    decode_captureTH _ (.inl rfl)⟩, next_of_statusAfter (by decide), by decide, by decide, t, ht, by simp [hr, regsTH],
    by simp [hr, regsTH]⟩

set_option maxRecDepth 10000 in
/-- A state that meets the invariant and is not the reset state: after V-DEC-1, with `RESET` asserted. -/
theorem witness_EveryStepKeepsTheInvariant : decodedThenReset.Inv ∧ ∃ t, step decodedThenReset = .next t :=
  ⟨⟨by decide, by decide, by decide, by decide, by decide⟩, _, rfl⟩

set_option maxRecDepth 10000 in
theorem witness_RunsNeverStop : decodedThenReset.Inv := ⟨by decide, by decide, by decide, by decide, by decide⟩

set_option maxRecDepth 10000 in
/-- Lines that can be spelt; one line that returns a value; two parts that each return one. -/
theorem witness_HostProgramsRunToTheirEnd : decodedThenReset.Inv
    ∧ (∀ l ∈ [HostLine.reset, .read 0x00, .command 7 [] none none none], l.wf = true)
    ∧ runLine decodedThenReset (.read 0x07) = .next (decodedThenReset, some 0xCD)
    ∧ runProgram decodedThenReset [.read 0x07] = .next (decodedThenReset, [0xCD])
    ∧ runProgram decodedThenReset [.read 0x0E] = .next (decodedThenReset, [1]) :=
  ⟨⟨by decide, by decide, by decide, by decide, by decide⟩, by decide, rfl, rfl, rfl⟩

end Sys2Proof.Tests
end

section
/-! The machine's invariant (R27, R29, R30). `OutRegs.Sound` gathers what it says of the register file; every named write keeps it,
so every register file in `Leaves` has it, and so has the file after any step. -/

namespace Sys2Proof.Machine

/-! ### The ranges of the values the writes take (R27) -/

/-- `MSG_MAX >= 25` (R8) leaves room for a span of 24 characters. -/
theorem Config.le_largestEvenLen {cfg : Config} (hl : cfg.Legal) : 24 ≤ Config.largestEvenLen cfg := by
  have hmax := hl.1
  unfold Config.largestEvenLen
  omega

/-- No even `MSG_LEN` that fits the buffer is above R27's `Lmax`. -/
theorem State.msgLength_le_largestEvenLen {s : State} (hle : s.msgLength ≤ s.cfg.msgMax) (heven : s.msgLength % 2 = 0) :
    s.msgLength ≤ Config.largestEvenLen s.cfg := by
  have hlt : s.msgLength < 256 := s.snapshot.len_lt
  unfold Config.largestEvenLen
  omega

theorem zext16_toNat_of_lt {v : Nat} (h : v < 65536) : (zext16 v).toNat = v := by
  rw [zext16, BitVec.toNat_ofNat, Nat.mod_eq_of_lt h]

theorem zext16_toNat_le (v : Nat) : (zext16 v).toNat ≤ v := by
  rw [zext16, BitVec.toNat_ofNat]
  exact Nat.mod_le ..

/-- A magnitude of three decimal digits keeps its value in the 16 bits of `TEMP`, with either sign (R145). -/
theorem twos16_signedTenths_toInt {mag : Nat} (h : mag ≤ 999) (neg : Bool) :
    (twos16 (signedTenths neg mag)).toInt = signedTenths neg mag := by
  rw [twos16, BitVec.toInt_ofInt]
  apply Int.bmod_eq_of_le <;> cases neg <;> simp only [signedTenths] <;> omega

theorem signedTenths_range {mag : Nat} (h : mag ≤ 999) (neg : Bool) :
    -999 ≤ signedTenths neg mag ∧ signedTenths neg mag ≤ 999 := by
  cases neg <;> simp only [signedTenths] <;> omega

theorem mapChannel_mem (cfg : Config) (raw : Nibble) : mapChannel cfg raw ∈ cfg.channelMap.toList :=
  Vector.mem_toList_iff.mpr (Vector.getElem_mem raw.isLt)

theorem subprotoCode_cases (sp : SubProtocol) : subprotoCode sp = 1 ∨ subprotoCode sp = 2 := by
  cases sp <;> decide

theorem subprotoCode_eq_two {sp : SubProtocol} : subprotoCode sp = 2 ↔ sp = .tempHum := by
  cases sp <;> decide

/-! ### What the invariant says of the register file, and that every write keeps it -/

/-- R27, R29, R30: the register file's part of `State.Inv`. -/
structure OutRegs.Sound (cfg : Config) (r : OutRegs) : Prop where
  /-- The six invariants of R30. -/
  consistent : r.Consistent
  /-- The legal values of R27. -/
  inRange : r.InRange cfg
  /-- R29: without a valid Reading its fields are 0. -/
  fieldsZero : r.valid = false → r.FieldsZero

/-- What COMMIT finds in the register file: SELECT has written sub-protocol `sp`, and no Reading is there yet. -/
structure OutRegs.ReadyToCommit (sp : SubProtocol) (r : OutRegs) : Prop where
  /-- `STATUS` is the code the operation ends with. -/
  status : r.status = .ok
  /-- HEADER has announced a Reading (R120). -/
  hasReading : r.hasReading = true
  /-- HEADER has written `CLASS` (R120). -/
  sensorClass : r.sensorClass = 1
  /-- SELECT has written the code of `sp` (R123). -/
  subproto : r.subproto = subprotoCode sp
  /-- COMMIT has not run (R198). -/
  valid : r.valid = false

namespace OutRegs

variable {cfg : Config} {r : OutRegs}

theorem sound_reset (cfg : Config) : OutRegs.reset.Sound cfg where
  consistent := by decide
  inRange := ⟨by decide, by decide, by decide, by decide, nofun, fun _ => rfl, Nat.zero_le _⟩
  fieldsZero := by decide

namespace Sound

theorem writeResult (h : r.Sound cfg) (v : Half) : (r.writeResult v).Sound cfg :=
  ⟨h.consistent, h.inRange, h.fieldsZero⟩

theorem writeRolling (h : r.Sound cfg) (v : Byte) : (r.writeRolling v).Sound cfg :=
  ⟨h.consistent, h.inRange, h.fieldsZero⟩

/-- Only a valid Reading ties `STATUS` down (R30). -/
theorem setStatus (h : r.Sound cfg) (hv : r.valid = false) (code : StatusCode) : (r.setStatus code).Sound cfg := by
  obtain ⟨-, hrest⟩ := h.consistent
  exact ⟨⟨fun ht => absurd (hv.symm.trans ht) nofun, hrest⟩, h.inRange, h.fieldsZero⟩

theorem writeSums (h : r.Sound cfg) {v : Nat} (hv : v ≤ 15 * (Config.largestEvenLen cfg - 1)) (tx : Byte) :
    (r.writeSums (zext16 v) tx).Sound cfg := by
  obtain ⟨hclass, hsub, htemp, hhum, hch, hch0, -⟩ := h.inRange
  exact ⟨h.consistent, ⟨hclass, hsub, htemp, hhum, hch, hch0, (zext16_toNat_le v).trans hv⟩, h.fieldsZero⟩

theorem writeCrcs (h : r.Sound cfg) (computed tx : Byte) : (r.writeCrcs computed tx).Sound cfg := by
  obtain ⟨hvalid, hhum, hids, -, hread, hneg⟩ := h.consistent
  exact ⟨⟨hvalid, hhum, hids, fun _ => rfl, hread, hneg⟩, h.inRange, h.fieldsZero⟩

theorem writeDiagnostics (h : r.Sound cfg) (f : Fields) {v : Nat} (hv : v ≤ 15 * (Config.largestEvenLen cfg - 1)) :
    (writeDiagnostics r f v).Sound cfg :=
  (h.writeRolling f.rolling).writeSums hv f.sumTx

/-- COMMIT (R198): the common fields, with a humidity exactly in sub-protocol 0x1D20. -/
theorem commit (h : r.Sound cfg) {sp : SubProtocol} (hr : r.ReadyToCommit sp) {f : Fields} (hf : f.Bounded cfg) {hum : Half}
    (hhum : hum.toNat ≤ 990 ∧ hum.toNat % 10 = 0) {hasHum : Bool} (hhas : hasHum = true ↔ sp = .tempHum) :
    { commitFields r f with hum := hum, hasHum := hasHum }.Sound cfg := by
  obtain ⟨-, -, hids, hcrc, -, -⟩ := h.consistent
  obtain ⟨hclass, hsub, -, -, -, -, hsum⟩ := h.inRange
  obtain ⟨hmag, raw, hch⟩ := hf
  have hread : r.hasReading ≠ false := by simp [hr.hasReading]
  have hcode : r.subproto = 1 ∨ r.subproto = 2 := hr.subproto ▸ subprotoCode_cases sp
  have hhas' : hasHum = true ↔ true = true ∧ r.subproto = 2 := by
    rw [hhas, hr.subproto, subprotoCode_eq_two, and_iff_right rfl]
  have htemp : -999 ≤ (commitFields r f).temp.toInt ∧ (commitFields r f).temp.toInt ≤ 999 := by
    rw [commitFields, OutRegs.commitCommon_temp, twos16_signedTenths_toInt hmag]
    exact signedTenths_range hmag f.neg
  have hchannel : f.channel ∈ cfg.channelMap.toList := by
    rw [hch]
    exact mapChannel_mem cfg raw
  exact {
    consistent := ⟨fun _ => ⟨hr.status, hr.hasReading, hr.sensorClass, hcode, rfl, rfl, rfl⟩,
      hhas', hids, hcrc, fun hn => absurd hn hread, fun _ => rfl⟩
    inRange := ⟨hclass, hsub, htemp, hhum, fun _ => hchannel, nofun, hsum⟩
    fieldsZero := nofun }

/-- COMMIT of a Temp-only Reading leaves humidity absent. -/
theorem commitFields (h : r.Sound cfg) (hr : r.ReadyToCommit .tempOnly) {f : Fields} (hf : f.Bounded cfg) :
    (commitFields r f).Sound cfg := by
  obtain ⟨-, -, -, -, hnoHum, -, -, -, -⟩ := h.fieldsZero hr.valid
  obtain ⟨-, -, -, hhum, -, -, -⟩ := h.inRange
  exact h.commit hr hf hhum (hasHum := r.hasHum) (by simp [hnoHum])

/-- COMMIT of a Temp+Humidity Reading. -/
theorem commitHum (h : r.Sound cfg) (hr : r.ReadyToCommit .tempHum) {f : Fields} (hf : f.Bounded cfg) {hum : Nat}
    (hhum : hum ≤ 990 ∧ hum % 10 = 0) : ((Machine.commitFields r f).commitHum (zext16 hum)).Sound cfg := by
  have hval : (zext16 hum).toNat = hum := zext16_toNat_of_lt (by omega)
  exact h.commit hr hf (hval.symm ▸ hhum) (hasHum := true) (by simp)

end Sound

/-! ### Every register file a command or a reset leaves -/

/-- An ID may stand without a sub-protocol: SELECT has not recognised it (R123). -/
theorem sound_unknown (cfg : Config) (id : Half) : (OutRegs.reset.writeHeader.writeFamilyId id).Sound cfg where
  consistent := by simp [OutRegs.Consistent]
  inRange := ⟨.inr rfl, (sound_reset cfg).inRange.2⟩
  fieldsZero := (sound_reset cfg).fieldsZero

theorem sound_afterHeader (cfg : Config) (code : StatusCode) : (OutRegs.afterHeader code).Sound cfg :=
  (sound_unknown cfg 0).setStatus rfl code

theorem sound_afterSelect (cfg : Config) (code : StatusCode) (sp : SubProtocol) : (OutRegs.afterSelect code sp).Sound cfg where
  consistent := by cases sp <;> simp [OutRegs.Consistent, OutRegs.afterSelect, subprotoCode, familyIdOf]
  inRange := ⟨.inr rfl, Or.inr (subprotoCode_cases sp), (sound_reset cfg).inRange.2.2⟩
  fieldsZero := (sound_reset cfg).fieldsZero

end OutRegs

/-- Whatever a command leaves is sound. -/
theorem Leaves.sound {s : State} {i : Instr} {q : OutRegs} (hl : s.cfg.Legal) (h : Leaves s i q) : q.Sound s.cfg := by
  have hmax := Config.le_largestEvenLen hl
  have reset := OutRegs.sound_reset s.cfg
  have selected := OutRegs.sound_afterSelect s.cfg
  cases h with
  | codec i v => exact (reset.writeResult v).setStatus rfl .ok
  | nothing i code => exact reset.setStatus rfl code
  | header i code => exact OutRegs.sound_afterHeader s.cfg code
  | unknown i id => exact (OutRegs.sound_unknown s.cfg id).setStatus rfl .unknownSubprotocol
  | ident sp => exact selected .ok sp
  | selected code sp => exact selected code sp
  | tempOnlyMismatch f v hv => exact (selected _ _).writeDiagnostics f (by omega)
  | tempOnly f v hlen hf hv => exact ((selected _ _).writeDiagnostics f (by omega)).commitFields ⟨rfl, rfl, rfl, rfl, rfl⟩ hf
  | tempHumMismatch f v c t hv => exact ((selected _ _).writeDiagnostics f (by omega)).writeCrcs c t
  | tempHum f v hum c t hlen hf hv hhum =>
    exact (((selected _ _).writeDiagnostics f (by omega)).writeCrcs c t).commitHum ⟨rfl, rfl, rfl, rfl, rfl⟩ hf hhum
  | tsum v t code hv => exact (reset.writeSums (by omega) t).setStatus rfl code
  | validate v c code hlen heven hv =>
    have hfit := State.msgLength_le_largestEvenLen hlen heven
    exact ((reset.writeSums (by omega) _).writeCrcs c _).setStatus rfl code

/-- Under legal parameters a step writes the register file, with the reset values or with what a command leaves, and
nothing else. -/
theorem step_eq_next {s t : State} (hl : s.cfg.Legal) (h : step s = .next t) :
    ∃ q, t = s.setRegs q ∧ (q = OutRegs.reset ∨ Leaves s (decodeOp s.ports.op) q) := by
  rcases step_cases s with ⟨-, hs⟩ | ⟨-, hs⟩
  · cases hs.symm.trans h
    exact ⟨OutRegs.reset, rfl, .inl rfl⟩
  · obtain ⟨q, hq, hleaves⟩ := exec_leaves (decodeOp s.ports.op) s hl
    cases (hs.trans hq).symm.trans h
    exact ⟨q, rfl, .inr hleaves⟩

/-- Under legal parameters the register file is sound after any step, whatever it was before. -/
theorem step_sound {s t : State} (hl : s.cfg.Legal) (h : step s = .next t) : t.regs.Sound s.cfg := by
  obtain ⟨q, rfl, rfl | hq⟩ := step_eq_next hl h
  · exact OutRegs.sound_reset s.cfg
  · exact hq.sound hl

/-- Settles O41: a step changes neither the parameters nor the ports, and leaves a sound register file. -/
theorem everyStepKeepsTheInvariant : Obligations.EveryStepKeepsTheInvariant := by
  rintro s t ⟨hl, hports, -⟩ h
  have hsound := step_sound hl h
  obtain ⟨q, rfl, -⟩ := step_eq_next hl h
  exact ⟨hl, hports, hsound.consistent, hsound.inRange, hsound.fieldsZero⟩

end Sys2Proof.Machine
end

section
/-! The machine's registers as the host sees them (R25, R27, R28, R34) and the command a step performs (R20, R80). -/

namespace Sys2Proof.Machine

/-! ### The placed command (R80, R81) -/

/-- A table word decodes exactly if it is an `OP` value, and then as `OP` does. -/
theorem decodeTableWord_eq_some {n w : Nat} {i : Instr} :
    decodeTableWord n w = some i ↔ w < 16 ∧ decodeOp (BitVec.ofNat 4 w) = i := by
  unfold decodeTableWord decodeWord
  by_cases hw : w < 16 <;> simp [hw]

theorem encode_decodeOp : ∀ op : BitVec 4, encode (decodeOp op) = op := by decide

/-- With `RESET` released a step is the operation `OP` selects. -/
theorem step_of_released {s : State} (h : s.ports.reset = false) : step s = exec (decodeOp s.ports.op) s := by
  rcases step_cases s with ⟨hr, -⟩ | ⟨-, hs⟩
  · exact absurd (h.symm.trans hr) nofun
  · exact hs

/-- Settles O3: `step_of_released`, with the word read as an `OP` value and encoded back. -/
theorem stepPerformsThePresentedCommand : Obligations.StepPerformsThePresentedCommand := by
  refine ⟨fun s i hr hi => ?_, fun s w i hi => ?_⟩
  · obtain ⟨-, rfl⟩ := decodeTableWord_eq_some.mp hi
    rw [step_of_released hr, BitVec.ofNat_toNat, BitVec.setWidth_eq]
  · obtain ⟨-, rfl⟩ := decodeTableWord_eq_some.mp hi
    refine ⟨step_of_released rfl, rfl, rfl, ?_⟩
    rw [encode_decodeOp]
    rfl

/-! ### The read port (R27, R28) -/

/-- The number of a register reads that register. -/
theorem OutRegs.readPort_number (r : OutRegs) (g : Reg) : r.readPort g.number = r.get g := by
  cases g <;> rfl

/-- A number that no register has reads as 0. -/
theorem OutRegs.readPort_of_no_register (r : OutRegs) {n : Byte} (h : ∀ g : Reg, g.number ≠ n) : r.readPort n = 0 := by
  have hnone : Reg.all.find? (fun g => g.number == n) = none :=
    List.find?_eq_none.mpr fun g _ => by simpa using h g
  rw [OutRegs.readPort, hnone]

/-- The last register number is 0x16. -/
theorem Reg.number_lt (g : Reg) : g.number.toNat < 0x17 := by
  cases g <;> decide

/-- A register narrower than the port is read zero-extended. -/
theorem OutRegs.readPort_bits {r : OutRegs} (g : Reg) {w : Nat} {v : BitVec w} (hw : w ≤ 16) (h : r.get g = v.setWidth 16) :
    (r.readPort g.number).toNat = v.toNat := by
  rw [OutRegs.readPort_number, h, BitVec.toNat_setWidth_of_le hw]

/-- A 1-bit register reads as 0 or 1. -/
theorem OutRegs.readPort_flag {r : OutRegs} (g : Reg) {b : Bool} (h : r.get g = (BitVec.ofBool b).setWidth 16) :
    (r.readPort g.number).toNat = b.toNat := by
  rw [OutRegs.readPort_bits g (by decide) h, BitVec.toNat_ofBool]

/-- Settles O6: each number of R27 is some register's, and each register is read whole, as bits or as a flag. -/
theorem readPortShowsEachRegister : Obligations.ReadPortShowsEachRegister := by
  intro s
  have bits {w : Nat} {v : BitVec w} (g : Reg) := OutRegs.readPort_bits (r := s.regs) g (v := v)
  have flag {b : Bool} (g : Reg) := OutRegs.readPort_flag (r := s.regs) g (b := b)
  have whole := OutRegs.readPort_number s.regs
  have beyond (n : Byte) (hn : 0x17 ≤ n.toNat) : s.regs.readPort n = 0 := by
    refine s.regs.readPort_of_no_register fun g hg => ?_
    have := g.number_lt
    rw [hg] at this
    omega
  exact ⟨fun _ => rfl, beyond, bits .status (by decide) rfl, whole .result, flag .hasReading rfl, flag .valid rfl,
    bits .sensorClass (by decide) rfl, bits .subproto (by decide) rfl, whole .familyId, whole .temp, flag .tempNeg rfl,
    flag .hasTemp rfl, whole .hum, flag .hasHum rfl, flag .battLow rfl, flag .hasBatt rfl, bits .channel (by decide) rfl,
    flag .hasChannel rfl, bits .rolling (by decide) rfl, whole .sumCalc, bits .sumTx (by decide) rfl,
    bits .crcCalc (by decide) rfl, bits .crcTx (by decide) rfl, flag .crcPresent rfl, flag .crcMatch rfl⟩

/-! ### Reset and the status codes (R25, R34) -/

/-- R34 by number: `STATUS`, register 0x00, holds 7 and every other register 0. -/
theorem OutRegs.reset_get (g : Reg) : OutRegs.reset.get g = if g.number = 0x00 then 7 else 0 := by
  cases g <;> rfl

/-- Settles O5: a number is some register's, which `OutRegs.reset_get` gives, or no register's, and reads as 0. -/
theorem powerUpIsTheResetState : Obligations.PowerUpIsTheResetState := by
  refine ⟨fun n => ?_, fun s hr => ?_⟩
  · by_cases hn : ∃ g : Reg, g.number = n
    · obtain ⟨g, rfl⟩ := hn
      exact (OutRegs.readPort_number ..).trans (OutRegs.reset_get g)
    · have hnone : ∀ g : Reg, g.number ≠ n := not_exists.mp hn
      have hzero : n ≠ 0x00 := (hnone .status).symm
      rw [OutRegs.readPort_of_no_register _ hnone, if_neg hzero]
  · rcases step_cases s with ⟨-, hs⟩ | ⟨hf, -⟩
    · exact hs
    · exact absurd (hf.symm.trans hr) nofun

/-- The status whose code a 3-bit value is. -/
def StatusCode.ofCode (c : BitVec 3) : StatusCode :=
  match c.toNat with
  | 0 => .ok
  | 1 => .noDecoder
  | 2 => .invalidDigit
  | 3 => .malformedLength
  | 4 => .unknownSubprotocol
  | 5 => .checksumMismatch
  | 6 => .illegalOp
  | _ => .idle

theorem StatusCode.code_ofCode : ∀ c : BitVec 3, (StatusCode.ofCode c).code = c := by decide

/-- Settles O7: the table of R25, and `StatusCode.ofCode` as its inverse. -/
theorem statusCodesAreNumberedAsListed : Obligations.StatusCodesAreNumberedAsListed :=
  ⟨by decide, fun c => ⟨StatusCode.ofCode c, StatusCode.code_ofCode c⟩⟩

end Sys2Proof.Machine
end

section
/-! The invariants of the register file (R27, R29, R30) and the meaning of `VALID` (R31), for every state and not only along a run:
a step leaves a sound register file whatever stood there before. -/

namespace Sys2Proof.Machine

/-- Settles O42: the reset register file is sound, and ports at rest list no character. -/
theorem resetMeetsTheInvariant : Obligations.ResetMeetsTheInvariant :=
  have hsound := OutRegs.sound_reset Config.default
  ⟨by decide, ⟨Memory.wf_reset, nofun⟩, hsound.consistent, hsound.inRange, hsound.fieldsZero⟩

/-- Settles O38: a step leaves a sound register file, whatever stood there before. -/
theorem registerFileIsConsistent : Obligations.RegisterFileIsConsistent := fun _ _ hl h =>
  have hsound := step_sound hl h
  ⟨hsound.consistent, hsound.fieldsZero⟩

/-- Settles O39: a step leaves a sound register file, whatever stood there before. -/
theorem registersStayInTheirLegalRange : Obligations.RegistersStayInTheirLegalRange := fun _ _ hl h =>
  (step_sound hl h).inRange

/-- R31: among what commands leave, `VALID = 1` marks the Readings of DECODE. -/
theorem Leaves.valid_iff {s : State} {i : Instr} {q : OutRegs} (h : Leaves s i q) :
    q.valid = true ↔ i = .decode ∧ q.status = .ok := by
  have reading {p : OutRegs} (hv : p.valid = true) (hs : p.status = .ok) :
      p.valid = true ↔ Instr.decode = .decode ∧ p.status = .ok := by simp [hv, hs]
  have noReading {p : OutRegs} (hv : p.valid = false) (hs : i = .decode → p.status ≠ .ok) :
      p.valid = true ↔ i = .decode ∧ p.status = .ok := by simpa [hv] using hs
  cases h with
  | codec i v hi => exact noReading rfl (by rcases hi with rfl | rfl | rfl <;> nofun)
  | nothing i code hc => exact noReading rfl fun _ => by rcases hc with rfl | rfl | rfl | rfl <;> nofun
  | header i code hi hc => exact noReading rfl fun _ => by rcases hc with rfl | rfl <;> nofun
  | unknown => exact noReading rfl fun _ => nofun
  | ident => exact noReading rfl nofun
  | selected code sp hc => exact noReading rfl fun _ => by rcases hc with rfl | rfl <;> nofun
  | tempOnlyMismatch => exact noReading rfl fun _ => nofun
  | tempOnly => exact reading rfl rfl
  | tempHumMismatch => exact noReading rfl fun _ => nofun
  | tempHum => exact reading rfl rfl
  | tsum => exact noReading rfl nofun
  | validate => exact noReading rfl nofun

/-- R175: an enforced CRC lets only a matching one pass. -/
theorem crcAllows_enforced {computed tx : Byte} : crcAllows true computed tx = (computed == tx) := by
  simp [crcAllows]

/-- R31, R175: under an enforced CRC a Temp+Humidity Reading of DECODE has a matching CRC. -/
theorem Leaves.crcMatch_of_enforced {s : State} {q : OutRegs} (h : Leaves s .decode q) (he : s.cfg.crcEnforced = true)
    (hok : q.status = .ok) (hsub : q.subproto = 2) : q.crcMatch = true := by
  cases h with
  | codec i v hi => exact absurd hi (by decide)
  | nothing i code hc => cases hsub
  | header i code hi hc => cases hsub
  | unknown => cases hsub
  | selected code sp hc =>
    cases (hok : code = .ok)
    exact absurd hc (by decide)
  | tempOnlyMismatch => cases hok
  | tempOnly => cases hsub
  | tempHumMismatch => cases hok
  | tempHum f v hum c t hlen hf hv hhum hcrc =>
    rw [he, crcAllows_enforced] at hcrc
    exact hcrc

/-- Settles O24: read off what a command leaves. -/
theorem validExactlyWhenDecodeSucceeds : Obligations.ValidExactlyWhenDecodeSucceeds := by
  intro i s t hl h
  obtain ⟨q, hq, hleaves⟩ := exec_leaves i s hl
  cases hq.symm.trans h
  refine ⟨hleaves.valid_iff, fun hv he hsub => ?_⟩
  obtain ⟨rfl, hok⟩ := hleaves.valid_iff.mp hv
  exact hleaves.crcMatch_of_enforced he hok hsub

end Sys2Proof.Machine
end

section
/-! Nothing carries over (R23, R24, R199). Of the register file before it a command keeps only `STATUS` past the clear on entry (R191),
and writes it at the end. So two runs of an operation whose register files differ in `STATUS` alone end alike: every stage passes
`Stage.Agree` on. -/

namespace Sys2Proof.Machine

/-! ### Register files that differ at most in `STATUS` -/

/-- With the same `STATUS` written to both, the two register files are equal. -/
def OutRegs.SameButStatus (r q : OutRegs) : Prop := ∀ code, r.setStatus code = q.setStatus code

namespace OutRegs

/-- The clear on entry keeps nothing but `STATUS` (R191). -/
theorem clear_sameButStatus (r q : OutRegs) : r.clear.SameButStatus q.clear := fun _ => rfl

namespace SameButStatus

variable {r q : OutRegs}

/-- A write that neither reads nor writes `STATUS` keeps two register files alike. -/
theorem write (h : r.SameButStatus q) (f : OutRegs → OutRegs) (hf : ∀ p code, (f p).setStatus code = f (p.setStatus code)) :
    (f r).SameButStatus (f q) := fun code => by rw [hf, hf, h code]

theorem familyId_eq (h : r.SameButStatus q) : r.familyId = q.familyId := by
  rw [← OutRegs.setStatus_familyId r .ok, h .ok, OutRegs.setStatus_familyId]

end SameButStatus
end OutRegs

/-! ### Stages that end alike -/

/-- Two runs of a stage end alike: they go on with related values, fail with the same code and register files that differ at
most in `STATUS`, or stop with the same fault. -/
inductive Stage.Agree {α : Type} (V : α → α → Prop) : Stage α → Stage α → Prop where
  | ok {a b : α} (h : V a b) : Agree V (.ok a) (.ok b)
  | fail (code : StatusCode) {r q : OutRegs} (h : r.SameButStatus q) : Agree V (failWith code r) (failWith code q)
  | fault (f : Fault) : Agree V (.error (.fault f)) (.error (.fault f))

namespace Stage.Agree

variable {α β : Type} {V : α → α → Prop} {W : β → β → Prop} {r q : OutRegs} {x : Snapshot}

theorem bind {m n : Stage α} {f g : α → Stage β} (h : Agree V m n) (hfg : ∀ a b, V a b → Agree W (f a) (g b)) :
    Agree W (m >>= f) (n >>= g) := by
  cases h with
  | ok h => exact hfg _ _ h
  | fail code h => exact .fail code h
  | fault e => exact .fault e

/-- After a stage whose value does not depend on the register file. -/
theorem bindEq {m n : Stage α} {f g : α → Stage β} (h : Agree Eq m n) (hfg : ∀ a, Agree W (f a) (g a)) :
    Agree W (m >>= f) (n >>= g) :=
  h.bind fun a _ hab => hab ▸ hfg a

theorem ite {c : Prop} [Decidable c] {m n m' n' : Stage α} (hm : Agree V m n) (hm' : Agree V m' n') :
    Agree V (if c then m else m') (if c then n else n') := by
  by_cases h : c
  · rwa [if_pos h, if_pos h]
  · rwa [if_neg h, if_neg h]

/-! ### The shared operations -/

theorem orInvalidDigit (h : r.SameButStatus q) (o : Option α) : Agree Eq (orInvalidDigit r o) (orInvalidDigit q o) := by
  cases o with
  | none => exact .fail .invalidDigit h
  | some v => exact .ok rfl

theorem char (x : Snapshot) (i : Nat) : Agree Eq (x.char i) (x.char i) := ite (.ok rfl) (.fault .noSuchPosition)

theorem chars (x : Snapshot) (is : List Nat) : Agree Eq (x.chars is) (x.chars is) := by
  induction is with
  | nil => exact .ok rfl
  | cons i is ih => exact (char x i).bindEq fun _ => ih.bindEq fun _ => .ok rfl

/-- A field: characters read, converted, and cut to the field's width (R142 to R148). -/
theorem field (h : r.SameButStatus q) (is : List Nat) (convert : List Byte → Option α) (cut : α → β) :
    Agree Eq (x.chars is >>= fun s => Machine.orInvalidDigit r (convert s) >>= fun v => .ok (cut v))
      (x.chars is >>= fun s => Machine.orInvalidDigit q (convert s) >>= fun v => .ok (cut v)) :=
  (chars x is).bindEq fun s => (orInvalidDigit h (convert s)).bindEq fun _ => .ok rfl

/-! ### The stages of the operations -/

theorem stageHeader (h : r.SameButStatus q) : Agree OutRegs.SameButStatus (stageHeader x r) (stageHeader x q) :=
  ite (.fail .noDecoder h) <| (chars x _).bindEq fun _ =>
    ite (.ok (h.write OutRegs.writeHeader fun _ _ => rfl)) (.fail .noDecoder h)

theorem stageMinLen (h : r.SameButStatus q) : Agree OutRegs.SameButStatus (stageMinLen x r) (stageMinLen x q) :=
  ite (.fail .malformedLength h) (.ok h)

theorem stageSubId (h : r.SameButStatus q) : Agree OutRegs.SameButStatus (stageSubId x r) (stageSubId x q) :=
  (chars x _).bindEq fun _ => (orInvalidDigit h _).bindEq fun id =>
    .ok (h.write (·.writeFamilyId (zext16 id)) fun _ _ => rfl)

/-- The selected sub-protocol is the same, since `FAMILY_ID` is. -/
theorem stageSelect (h : r.SameButStatus q) :
    Agree (fun a b => a.1 = b.1 ∧ a.2.SameButStatus b.2) (stageSelect r) (stageSelect q) := by
  unfold Machine.stageSelect
  rw [h.familyId_eq]
  cases selectById q.familyId with
  | some sp => exact .ok ⟨rfl, h.write (·.writeSubproto (subprotoCode sp)) fun _ _ => rfl⟩
  | none => exact .fail .unknownSubprotocol h

theorem selectProtocol (h : r.SameButStatus q) :
    Agree (fun a b => a.1 = b.1 ∧ a.2.SameButStatus b.2) (selectProtocol x r) (selectProtocol x q) :=
  (stageHeader h).bind fun _ _ h => (stageMinLen h).bind fun _ _ h => (stageSubId h).bind fun _ _ h => stageSelect h

theorem fieldMagnitude (h : r.SameButStatus q) : Agree Eq (fieldMagnitude x r) (fieldMagnitude x q) :=
  (chars x _).bindEq fun _ => orInvalidDigit h _

theorem fieldHumidity (h : r.SameButStatus q) : Agree Eq (fieldHumidity x r) (fieldHumidity x q) :=
  (chars x _).bindEq fun _ => orInvalidDigit h _

theorem fieldsTempOnly (h : r.SameButStatus q) : Agree Eq (fieldsTempOnly x r) (fieldsTempOnly x q) :=
  (field h _ oneDigit (mapChannel x.cfg)).bindEq fun _ => (field h _ hexValue byteOf).bindEq fun _ =>
    (field h _ oneDigit batteryBit).bindEq fun _ => (fieldMagnitude h).bindEq fun _ =>
    (field h _ oneDigit signBit).bindEq fun _ => (field h _ hexValue byteOf).bindEq fun _ => .ok rfl

theorem fieldsTempHum (h : r.SameButStatus q) : Agree Eq (fieldsTempHum x r) (fieldsTempHum x q) :=
  (field h _ oneDigit (mapChannel x.cfg)).bindEq fun _ => (field h _ hexValue byteOf).bindEq fun _ =>
    (field h _ oneDigit batteryBit).bindEq fun _ => (fieldMagnitude h).bindEq fun _ =>
    (field h _ oneDigit signBit).bindEq fun _ => (fieldHumidity h).bindEq fun _ =>
    (field h _ hexValue byteOf).bindEq fun _ => (field h _ hexValue byteOf).bindEq fun _ => .ok rfl

theorem tempOnlySum (h : r.SameButStatus q) (base : Nat) : Agree Eq (tempOnlySum base x r) (tempOnlySum base x q) :=
  (chars x _).bindEq fun _ => orInvalidDigit h _

theorem validateSpan (h : r.SameButStatus q) (span : List Byte) : Agree Eq (validateSpan span r) (validateSpan span q) :=
  (orInvalidDigit h _).bindEq fun _ => (orInvalidDigit h _).bindEq fun _ => .ok rfl

/-- The end of an operation with a check (R150, R176, R195): pass with one register file or fail with another. -/
theorem check {c : Prop} [Decidable c] {p p' : OutRegs} (h : r.SameButStatus q) (h' : p.SameButStatus p') :
    Agree OutRegs.SameButStatus (if c then .ok p else failWith .checksumMismatch r)
      (if c then .ok p' else failWith .checksumMismatch q) :=
  ite (.ok h') (.fail .checksumMismatch h)

/-! ### The operations -/

theorem opDigit (h : r.SameButStatus q) : Agree OutRegs.SameButStatus (opDigit x r) (opDigit x q) :=
  (char x 0).bindEq fun _ => (orInvalidDigit h _).bindEq fun v =>
    .ok (h.write (·.writeResult (zext16 v.toNat)) fun _ _ => rfl)

theorem opConvert (h : r.SameButStatus q) (convert : List Byte → Option Nat) :
    Agree OutRegs.SameButStatus (opConvert convert x r) (opConvert convert x q) :=
  ite (.fail .malformedLength h) <| (chars x _).bindEq fun _ => (orInvalidDigit h _).bindEq fun v =>
    .ok (h.write (·.writeResult (zext16 v)) fun _ _ => rfl)

theorem opIdent (h : r.SameButStatus q) : Agree OutRegs.SameButStatus (opIdent x r) (opIdent x q) :=
  (selectProtocol h).bind fun _ _ h => .ok h.2

theorem opTsum (h : r.SameButStatus q) : Agree OutRegs.SameButStatus (opTsum x r) (opTsum x q) :=
  ite (.fail .malformedLength h) <| (chars x _).bindEq fun _ => (orInvalidDigit h _).bindEq fun tx =>
    (tempOnlySum h 0).bindEq fun v =>
      have hsums := h.write (·.writeSums (zext16 v) (byteOf tx)) fun _ _ => rfl
      check hsums hsums

theorem opValidate (h : r.SameButStatus q) : Agree OutRegs.SameButStatus (opValidate x r) (opValidate x q) :=
  ite (.fail .malformedLength h) <| (chars x _).bindEq fun _ => (validateSpan h _).bindEq fun (v, c) =>
    have hdiag := h.write (fun p => (p.writeSums (zext16 v) x.ports.argSum).writeCrcs c x.ports.argCrc) fun _ _ => rfl
    check hdiag hdiag

theorem decodeTempOnly (h : r.SameButStatus q) : Agree OutRegs.SameButStatus (decodeTempOnly x r) (decodeTempOnly x q) :=
  (fieldsTempOnly h).bindEq fun f => (tempOnlySum h _).bindEq fun v =>
    have hdiag := h.write (writeDiagnostics · f v) fun _ _ => rfl
    check hdiag (hdiag.write (commitFields · f) fun _ _ => rfl)

theorem decodeTempHum (h : r.SameButStatus q) : Agree OutRegs.SameButStatus (decodeTempHum x r) (decodeTempHum x q) :=
  (fieldsTempHum h).bindEq fun (f, hum, tx) => (chars x _).bindEq fun _ => (validateSpan h _).bindEq fun (v, c) =>
    have hdiag := h.write (fun p => (writeDiagnostics p f v).writeCrcs c tx) fun _ _ => rfl
    check hdiag (hdiag.write (fun p => (commitFields p f).commitHum (zext16 hum)) fun _ _ => rfl)

theorem stageBodyLen (h : r.SameButStatus q) (sp : SubProtocol) : Agree Eq (stageBodyLen sp x r) (stageBodyLen sp x q) :=
  ite (.fail .malformedLength h) (.ok rfl)

theorem opDecode (h : r.SameButStatus q) : Agree OutRegs.SameButStatus (opDecode x r) (opDecode x q) :=
  (selectProtocol h).bind fun (sp, _) (_, _) ⟨hsp, h⟩ => by
    cases hsp
    refine (stageBodyLen h sp).bindEq fun _ => ?_
    cases sp with
    | tempOnly => exact decodeTempOnly h
    | tempHum => exact decodeTempHum h

theorem operationOf (h : r.SameButStatus q) (i : Instr) :
    Agree OutRegs.SameButStatus (operationOf i x r) (operationOf i x q) := by
  cases i with
  | decode => exact opDecode h
  | digit => exact opDigit h
  | hex => exact opConvert h hexValue
  | bcd => exact opConvert h bcdDecimal
  | ident => exact opIdent h
  | validate => exact opValidate h
  | tsum => exact opTsum h
  | reserved7 => exact .fail .illegalOp h
  | reservedHigh x => exact .fail .illegalOp h

/-- The end of an operation writes `STATUS`, so operations that end alike leave the same state. -/
theorem finish_eq {m n : Stage OutRegs} (h : Agree OutRegs.SameButStatus m n) (s : State) : finish s m = finish s n := by
  cases h with
  | ok h => simp only [finish, h .ok]
  | fail code h => simp only [failWith, finish, h code]
  | fault f => rfl

end Stage.Agree

/-! ### Commands -/

theorem finish_setRegs (s : State) (r : OutRegs) (m : Stage OutRegs) : finish (s.setRegs r) m = finish s m := by
  rcases m with (⟨code, q⟩ | f) | q <;> rfl

/-- R199: a command's outcome does not depend on the register file before it. -/
theorem exec_setRegs (i : Instr) (s : State) (r : OutRegs) : exec i (s.setRegs r) = exec i s := by
  rw [exec_eq_runOperation, exec_eq_runOperation, runOperation, runOperation, finish_setRegs]
  exact (Stage.Agree.operationOf (OutRegs.clear_sameButStatus _ _) i).finish_eq s

/-- A command's next state is the state before with another register file (R66). -/
theorem exec_eq_next {i : Instr} {s t : State} (h : exec i s = .next t) : ∃ q, t = s.setRegs q := by
  rw [exec_eq_runOperation] at h
  rcases runOperation_eq_next h with ⟨q, -, ht⟩ | ⟨code, q, -, ht⟩
  · exact ⟨_, ht⟩
  · exact ⟨_, ht⟩

/-- Settles O34: `exec_setRegs`, once for any register file and once for the one the command left. -/
theorem commandsForgetEarlierRegisters : Obligations.CommandsForgetEarlierRegisters := by
  intro i s t h
  have hany (r : OutRegs) : exec i (s.setRegs r) = .next t := (exec_setRegs i s r).trans h
  obtain ⟨q, rfl⟩ := exec_eq_next h
  exact ⟨hany, hany q⟩

end Sys2Proof.Machine
end

section
/-! What the message can do to a command (R61 to R66): a command stores nothing, DECODE accepts two message lengths, and a character at
a position R63 does not let a command read does not reach its result. For the last, each stage is shown equal on two snapshots that
differ in `MSG` alone; the one character that is read and never converted is the second of a Validator span (R65, R171, R173). -/

namespace Sys2Proof.Machine

/-! ### A command and the ports (R66), and the messages DECODE accepts (R61) -/

/-- Settles O33: `exec_eq_next`, a command's next state is the state before with another register file. -/
theorem commandsChangeOnlyTheRegisterFile : Obligations.CommandsChangeOnlyTheRegisterFile := by
  intro i s t h
  obtain ⟨q, rfl⟩ := exec_eq_next h
  exact ⟨rfl, rfl, fun _ => rfl⟩

/-- Among what DECODE leaves, only the two Readings have `STATUS = 0`. -/
theorem Leaves.length_of_decode_ok {s : State} {q : OutRegs} (h : Leaves s .decode q) (hok : q.status = .ok) :
    (s.msgLength = 21 ∧ q.subproto = 1 ∧ q.familyId = 0xEC40) ∨ (s.msgLength = 25 ∧ q.subproto = 2 ∧ q.familyId = 0x1D20) := by
  cases h with
  | codec i v hi => exact absurd hi (by decide)
  | nothing i code hc =>
    cases (hok : code = .ok)
    exact absurd hc (by decide)
  | header i code hi hc =>
    cases (hok : code = .ok)
    exact absurd hc (by decide)
  | unknown => cases hok
  | selected code sp hc =>
    cases (hok : code = .ok)
    exact absurd hc (by decide)
  | tempOnlyMismatch => cases hok
  | tempOnly f v hlen => exact .inl ⟨hlen, rfl, rfl⟩
  | tempHumMismatch => cases hok
  | tempHum f v hum c t hlen => exact .inr ⟨hlen, rfl, rfl⟩

/-- Settles O23: read off what DECODE leaves. -/
theorem onlyTwoMessageLengthsDecode : Obligations.OnlyTwoMessageLengthsDecode := by
  intro s t hl h hok
  obtain ⟨q, hq, hleaves⟩ := exec_leaves .decode s hl
  cases hq.symm.trans h
  exact hleaves.length_of_decode_ok hok

/-! ### Two snapshots that differ in `MSG` alone -/

/-- Other characters on the `MSG` port, all else alike. -/
def Snapshot.withMsg (x : Snapshot) (m : Memory) : Snapshot := { x with ports := { x.ports with msg := m } }

@[simp] theorem State.snapshot_withMsg (s : State) (m : Memory) : (s.withMsg m).snapshot = s.snapshot.withMsg m := rfl
@[simp] theorem Snapshot.withMsg_len (x : Snapshot) (m : Memory) : (x.withMsg m).len = x.len := rfl
@[simp] theorem Snapshot.withMsg_cfg (x : Snapshot) (m : Memory) : (x.withMsg m).cfg = x.cfg := rfl

/-- `m` holds the characters of the snapshot's message at every position in `P`. -/
def Snapshot.AgreesOn (x : Snapshot) (m : Memory) (P : Nat → Prop) : Prop := ∀ p, P p → m.read p = x.ports.msg.read p

/-- What runs after a stage need only be alike for the values the stage can give. -/
theorem Stage.bind_congr_of_ok {α β : Type} {n : Stage α} {f g : α → Stage β} (h : ∀ a, n = .ok a → f a = g a) :
    (n >>= f) = n >>= g := by
  cases n with
  | ok a => exact h a rfl
  | error e => rfl

theorem stageMinLen_eq_ok {x : Snapshot} {r q : OutRegs} (h : stageMinLen x r = .ok q) : 11 < x.len := by
  unfold stageMinLen at h
  split at h
  · cases h
  · next hlen => exact Nat.lt_of_not_le hlen

theorem stageBodyLen_eq_ok {sp : SubProtocol} {x : Snapshot} {r : OutRegs} {u : Unit} (h : stageBodyLen sp x r = .ok u) :
    x.len - 5 = bodyLenOf sp := by
  unfold stageBodyLen at h
  split at h
  · cases h
  · next hlen => exact not_not.mp hlen

section Reads

variable {x : Snapshot} {m : Memory} {P Q : Nat → Prop}

theorem Snapshot.AgreesOn.mono (h : x.AgreesOn m P) (hQ : ∀ p, Q p → P p) : x.AgreesOn m Q := fun p hp => h p (hQ p hp)

/-! ### Characters -/

theorem Snapshot.char_withMsg (h : x.AgreesOn m P) {i : Nat} (hi : P i) : (x.withMsg m).char i = x.char i :=
  ite_congr rfl (fun _ => congrArg Except.ok (h i hi)) fun _ => rfl

theorem Snapshot.chars_withMsg (h : x.AgreesOn m P) {is : List Nat} (his : ∀ i ∈ is, P i) :
    (x.withMsg m).chars is = x.chars is := by
  induction is with
  | nil => rfl
  | cons i is ih =>
    obtain ⟨hi, his⟩ := List.forall_mem_cons.mp his
    rw [Snapshot.chars, Snapshot.chars, Snapshot.char_withMsg h hi, ih his]

theorem Snapshot.bodyChars_withMsg (h : x.AgreesOn m P) {is : List Nat} (his : ∀ p ∈ is.map (bodyOffset + ·), P p) :
    (x.withMsg m).bodyChars is = x.bodyChars is :=
  Snapshot.chars_withMsg h his

/-- Neither the checksum nor the CRC takes the second character of a span: it comes first in the working copy, and both start
at its second place (R171, R173). -/
theorem validateSpan_second (a b c : Byte) (rest : List Byte) (r : OutRegs) :
    validateSpan (a :: b :: rest) r = validateSpan (a :: c :: rest) r := rfl

/-- The Validator over a span read from the message takes no account of the span's second position. -/
theorem validateSpan_chars_withMsg (h : x.AgreesOn m P) {i : Nat} (hi : P i) (j : Nat) {is : List Nat} (his : ∀ i ∈ is, P i)
    (r : OutRegs) :
    ((x.withMsg m).chars (i :: j :: is) >>= fun span => validateSpan span r)
      = x.chars (i :: j :: is) >>= fun span => validateSpan span r := by
  simp only [Snapshot.chars, Snapshot.char_withMsg h hi, Snapshot.chars_withMsg h his, bind_assoc]
  refine bind_congr fun a => ?_
  by_cases hj : j < x.cfg.msgMax
  · rw [Snapshot.char_of_lt hj, Snapshot.char_of_lt (x := x.withMsg m) hj]
    exact bind_congr fun rest => validateSpan_second a _ _ rest r
  · rw [Snapshot.char, if_neg (c := j < (x.withMsg m).cfg.msgMax) hj, Snapshot.char, if_neg hj]

/-! ### The selector (R63, rows "header" and "ID") -/

theorem stageHeader_withMsg (h : x.AgreesOn m (SelectorReads x.len)) (r : OutRegs) :
    stageHeader (x.withMsg m) r = stageHeader x r := by
  refine ite_congr rfl (fun _ => rfl) fun hlen => ?_
  have hread (p : Nat) (hp : p < 4) : SelectorReads x.len p := .inl ⟨Nat.lt_of_not_le hlen, hp⟩
  rw [Snapshot.chars_withMsg (h.mono hread) (by decide)]

theorem stageSubId_withMsg (h : x.AgreesOn m (SelectorReads x.len)) (hlen : 11 < x.len) (r : OutRegs) :
    stageSubId (x.withMsg m) r = stageSubId x r := by
  have hread (p : Nat) (hp : p ∈ [5, 8, 7, 10]) : SelectorReads x.len p := .inr ⟨hlen, hp⟩
  rw [stageSubId, Snapshot.bodyChars_withMsg (h.mono hread) (by decide), stageSubId]

theorem selectProtocol_withMsg (h : x.AgreesOn m (SelectorReads x.len)) (r : OutRegs) :
    selectProtocol (x.withMsg m) r = selectProtocol x r := by
  unfold selectProtocol
  rw [stageHeader_withMsg h]
  refine bind_congr fun q => Stage.bind_congr_of_ok fun p hp => ?_
  rw [stageSubId_withMsg h (stageMinLen_eq_ok hp)]

/-! ### The fields and checks of a body (R63, R65) -/

/-- The body of a Temp-only message, without the two positions nothing reads. -/
abbrev TempOnlyBody (p : Nat) : Prop := 5 ≤ p ∧ p < 21 ∧ p ≠ 6 ∧ p ≠ 19

/-- The body of a Temp+Humidity message, without the position nothing converts. -/
abbrev TempHumBody (p : Nat) : Prop := 5 ≤ p ∧ p < 25 ∧ p ≠ 6

theorem tempOnlySum_withMsg (h : x.AgreesOn m P) {base : Nat} (hbase : ∀ p ∈ tempOnlySumPositions.map (base + ·), P p)
    (r : OutRegs) : tempOnlySum base (x.withMsg m) r = tempOnlySum base x r := by
  rw [tempOnlySum, Snapshot.chars_withMsg h hbase, tempOnlySum]

theorem fieldsTempOnly_withMsg (h : x.AgreesOn m TempOnlyBody) (r : OutRegs) :
    fieldsTempOnly (x.withMsg m) r = fieldsTempOnly x r := by
  have hread {is : List Nat} := Snapshot.bodyChars_withMsg (is := is) h
  simp only [fieldsTempOnly, fieldChannel, fieldRolling, fieldBattery, fieldMagnitude, fieldSign, fieldSumTx,
    Snapshot.withMsg_cfg, hread (is := channelPositions) (by decide), hread (is := rollingPositions) (by decide),
    hread (is := batteryPositions) (by decide), hread (is := magnitudePositions) (by decide),
    hread (is := signPositions) (by decide), hread (is := sumTxPositions .tempOnly) (by decide)]

theorem fieldsTempHum_withMsg (h : x.AgreesOn m TempHumBody) (r : OutRegs) :
    fieldsTempHum (x.withMsg m) r = fieldsTempHum x r := by
  have hread {is : List Nat} := Snapshot.bodyChars_withMsg (is := is) h
  simp only [fieldsTempHum, fieldChannel, fieldRolling, fieldBattery, fieldMagnitude, fieldSign, fieldHumidity, fieldSumTx,
    fieldCrcTx, Snapshot.withMsg_cfg, hread (is := channelPositions) (by decide), hread (is := rollingPositions) (by decide),
    hread (is := batteryPositions) (by decide), hread (is := magnitudePositions) (by decide),
    hread (is := signPositions) (by decide), hread (is := humidityPositions) (by decide),
    hread (is := sumTxPositions .tempHum) (by decide), hread (is := crcTxPositions) (by decide)]

theorem decodeTempOnly_withMsg (h : x.AgreesOn m TempOnlyBody) (r : OutRegs) :
    decodeTempOnly (x.withMsg m) r = decodeTempOnly x r := by
  rw [decodeTempOnly, fieldsTempOnly_withMsg h, tempOnlySum_withMsg h (by decide), decodeTempOnly]

theorem decodeTempHum_withMsg (h : x.AgreesOn m TempHumBody) (r : OutRegs) :
    decodeTempHum (x.withMsg m) r = decodeTempHum x r := by
  unfold decodeTempHum
  rw [fieldsTempHum_withMsg h]
  refine bind_congr fun (f, hum, crcTx) => ?_
  have hspan := validateSpan_chars_withMsg h (i := 5) (by decide) 6 (is := List.range' 7 14) (by decide) r
  simp only [← bind_assoc]
  exact congrArg (· >>= _) hspan

/-! ### The operations -/

theorem opDecode_withMsg (h : x.AgreesOn m (MayRead x.cfg.msgMax x.len .decode)) (r : OutRegs) :
    opDecode (x.withMsg m) r = opDecode x r := by
  unfold opDecode
  rw [selectProtocol_withMsg (h.mono fun _ => .inl)]
  refine bind_congr fun (sp, q) => Stage.bind_congr_of_ok (n := stageBodyLen sp x q) fun _ hbody => ?_
  have hlen := stageBodyLen_eq_ok hbody
  cases sp with
  | tempOnly =>
    have hlen : x.len = 21 := by simp only [bodyLenOf] at hlen; omega
    exact decodeTempOnly_withMsg (h.mono fun _ hp => .inr (.inl ⟨hlen, hp⟩)) q
  | tempHum =>
    have hlen : x.len = 25 := by simp only [bodyLenOf] at hlen; omega
    exact decodeTempHum_withMsg (h.mono fun _ hp => .inr (.inr ⟨hlen, hp⟩)) q

theorem opDigit_withMsg (h : x.AgreesOn m (· = 0)) (r : OutRegs) : opDigit (x.withMsg m) r = opDigit x r := by
  rw [opDigit, Snapshot.char_withMsg h rfl, opDigit]

theorem opConvert_withMsg (h : x.AgreesOn m fun p => x.len ≤ 4 ∧ p < x.len) (convert : List Byte → Option Nat) (r : OutRegs) :
    opConvert convert (x.withMsg m) r = opConvert convert x r := by
  refine ite_congr rfl (fun _ => rfl) fun hlen => ?_
  have hread : (x.withMsg m).message = x.message :=
    Snapshot.chars_withMsg h fun _ hi => ⟨Nat.le_of_not_lt hlen, List.mem_range.mp hi⟩
  rw [hread]

theorem opIdent_withMsg (h : x.AgreesOn m (SelectorReads x.len)) (r : OutRegs) : opIdent (x.withMsg m) r = opIdent x r := by
  rw [opIdent, selectProtocol_withMsg h, opIdent]

/-- The first two positions of a message of two or more characters, and the rest. -/
theorem range_add_two (n : Nat) : List.range (n + 2) = 0 :: 1 :: List.range' 2 n := by
  rw [List.range_eq_range', List.range'_succ, List.range'_succ]

/-- The Validator over a whole message of even length. -/
theorem validateSpan_message_withMsg (h : x.AgreesOn m fun p => p < x.len ∧ p ≠ 1) (heven : x.len % 2 = 0) (r : OutRegs) :
    ((x.withMsg m).message >>= fun span => validateSpan span r) = x.message >>= fun span => validateSpan span r := by
  unfold Snapshot.message
  rw [Snapshot.withMsg_len]
  rcases hlen : x.len with _ | _ | n
  · rfl
  · omega
  · rw [range_add_two]
    refine validateSpan_chars_withMsg h ⟨by omega, by decide⟩ 1 (fun i hi => ?_) r
    obtain ⟨hle, hlt⟩ := List.mem_range'_1.mp hi
    constructor <;> omega

theorem opValidate_withMsg (h : x.AgreesOn m (MayRead x.cfg.msgMax x.len .validate)) (r : OutRegs) :
    opValidate (x.withMsg m) r = opValidate x r := by
  refine ite_congr rfl (fun _ => rfl) fun hlen => ?_
  obtain ⟨hle, heven⟩ : x.len ≤ x.cfg.msgMax ∧ x.len % 2 = 0 := by omega
  have hspan := validateSpan_message_withMsg (h.mono fun p hp => ⟨hle, heven, hp⟩) heven r
  simp only [← bind_assoc]
  exact congrArg (· >>= _) hspan

theorem opTsum_withMsg (h : x.AgreesOn m (MayRead x.cfg.msgMax x.len .tsum)) (r : OutRegs) :
    opTsum (x.withMsg m) r = opTsum x r := by
  refine ite_congr rfl (fun _ => rfl) fun hlen => ?_
  have hbody : x.AgreesOn m fun p => p < 16 ∧ p ≠ 1 ∧ p ≠ 14 := h.mono fun p hp => ⟨not_not.mp hlen, hp⟩
  rw [Snapshot.chars_withMsg hbody (by decide), tempOnlySum_withMsg hbody (by decide)]

/-- R63 for every command: two messages alike at the positions it may read give the same operation. -/
theorem operationOf_withMsg (i : Instr) (h : x.AgreesOn m (MayRead x.cfg.msgMax x.len i)) (r : OutRegs) :
    operationOf i (x.withMsg m) r = operationOf i x r := by
  cases i with
  | decode => exact opDecode_withMsg h r
  | digit => exact opDigit_withMsg h r
  | hex => exact opConvert_withMsg h hexValue r
  | bcd => exact opConvert_withMsg h bcdDecimal r
  | ident => exact opIdent_withMsg h r
  | validate => exact opValidate_withMsg h r
  | tsum => exact opTsum_withMsg h r
  | reserved7 => rfl
  | reservedHigh => rfl

end Reads

/-- The end of an operation does not look at the message. -/
theorem finish_withMsg {s t : State} {o : Stage OutRegs} (h : finish s o = .next t) (m : Memory) :
    finish (s.withMsg m) o = .next (t.withMsg m) := by
  rcases o with (⟨code, q⟩ | f) | q <;> cases h <;> rfl

/-- Settles O35: the operation is the same on both messages (`operationOf_withMsg`), and so is its end. -/
theorem unreadCharactersHaveNoEffect : Obligations.UnreadCharactersHaveNoEffect := by
  intro i s t m _ hread h
  rw [exec_eq_runOperation, runOperation] at h ⊢
  rw [State.snapshot_withMsg, operationOf_withMsg (x := s.snapshot) i hread]
  exact finish_withMsg h m

end Sys2Proof.Machine
end

section
/-! Encoding and decoding of `OP` (R80, R81, R84), the reserved encodings (R83), and the input ports a command ignores (R82). -/

namespace Sys2Proof.Machine

/-! ### The opcode map (R81) -/

theorem decodeOp_encode (i : Instr) : decodeOp (encode i) = i := by
  cases i with
  | reservedHigh x => revert x; decide
  | _ => rfl

/-- Settles O2: the decoder and the encoder invert each other, and a word below 16 is the `OP` value it holds. -/
theorem decodeAndEncodeAgree : Obligations.DecodeAndEncodeAgree := by
  refine ⟨fun i => ⟨by cases i <;> rfl, decodeOp_encode i⟩, encode_decodeOp, fun n w i => ?_⟩
  rw [decodeTableWord_eq_some]
  constructor
  · rintro ⟨hw, rfl⟩
    rw [encode_decodeOp, BitVec.toNat_ofNat, Nat.mod_eq_of_lt hw]
  · rintro rfl
    refine ⟨(encode i).isLt, ?_⟩
    rw [BitVec.ofNat_toNat, BitVec.setWidth_eq, decodeOp_encode]

/-- Settles O1: 16 closed equations, which evaluate. -/
theorem opcodeMapSelectsEveryCommand : Obligations.OpcodeMapSelectsEveryCommand := by
  unfold Obligations.OpcodeMapSelectsEveryCommand
  decide

/-! ### The reserved encodings (R83) -/

theorem decodeOp_reserved :
    ∀ op : BitVec 4, 7 ≤ op.toNat → decodeOp op = .reserved7 ∨ ∃ x, decodeOp op = .reservedHigh x := by
  decide

/-- Settles O31: both rows run `opReserved`, and an `OP` value from 7 on decodes to one of them. -/
theorem reservedEncodingsReportIllegalOp : Obligations.ReservedEncodingsReportIllegalOp := by
  refine ⟨fun _ => rfl, fun _ _ => rfl, fun s hr hop => ?_⟩
  rw [step_of_released hr]
  rcases decodeOp_reserved s.ports.op hop with hi | ⟨x, hi⟩ <;> rw [hi] <;> rfl

/-! ### Ignored ports (R82) -/

/-- The end of an operation does not look at the ports. -/
theorem finish_setPorts {s : State} {q : OutRegs} {o : Stage OutRegs} (h : finish s o = .next (s.setRegs q)) (p : Ports) :
    finish (s.setPorts p) o = .next ((s.setPorts p).setRegs q) := by
  rcases o with (⟨code, r⟩ | f) | r <;> cases h <;> rfl

/-- Other input ports on which a command's operation is the same leave the same register file. -/
theorem exec_setPorts {i : Instr} {s : State} {q : OutRegs} {p : Ports} (h : exec i s = .next (s.setRegs q))
    (hop : ∀ r, operationOf i (s.setPorts p).snapshot r = operationOf i s.snapshot r) :
    exec i (s.setPorts p) = .next ((s.setPorts p).setRegs q) := by
  rw [exec_eq_runOperation, runOperation] at h ⊢
  rw [State.setPorts_regs, hop]
  exact finish_setPorts h p

/-- Other transmitted operands on the ports, all else alike. -/
def Snapshot.withArgs (x : Snapshot) (sum crc : Byte) : Snapshot :=
  { x with ports := { x.ports with argSum := sum, argCrc := crc } }

theorem Snapshot.chars_withArgs (x : Snapshot) (sum crc : Byte) (is : List Nat) :
    (x.withArgs sum crc).chars is = x.chars is := by
  induction is with
  | nil => rfl
  | cons i is ih =>
    rw [Snapshot.chars, Snapshot.chars, ih]
    rfl

theorem opConvert_withArgs (convert : List Byte → Option Nat) (x : Snapshot) (sum crc : Byte) (r : OutRegs) :
    opConvert convert (x.withArgs sum crc) r = opConvert convert x r := by
  have hread : (x.withArgs sum crc).message = x.message := x.chars_withArgs sum crc _
  exact ite_congr rfl (fun _ => rfl) fun _ => congrArg (· >>= _) hread

/-- R82: only VALIDATE's operation takes the operands. HEX and BCD read as many characters as `MSG_LEN` says; the others read a fixed
list of positions, so that the two sides evaluate to the same reads. -/
theorem operationOf_withArgs {i : Instr} (hi : i ≠ .validate) (x : Snapshot) (sum crc : Byte) (r : OutRegs) :
    operationOf i (x.withArgs sum crc) r = operationOf i x r := by
  cases i with
  | validate => exact absurd rfl hi
  | hex => exact opConvert_withArgs hexValue x sum crc r
  | bcd => exact opConvert_withArgs bcdDecimal x sum crc r
  | decode | digit | ident | tsum | reserved7 | reservedHigh => rfl

/-- Settles O36: the operands reach no operation but VALIDATE's, and `MSG_LEN` reaches neither DIGIT's nor the reserved one. -/
theorem ignoredPortsHaveNoEffect : Obligations.IgnoredPortsHaveNoEffect := by
  intro i s t h
  obtain ⟨q, rfl⟩ := exec_eq_next h
  refine ⟨fun hi sum crc => exec_setPorts h (operationOf_withArgs hi s.snapshot sum crc), fun hi n => exec_setPorts h fun r => ?_⟩
  rcases hi with rfl | rfl | ⟨x, rfl⟩ <;> rfl

end Sys2Proof.Machine
end

section
/-! Host lines and host programs (R85, R86, R249): the ports a line puts before the step, where the line ends, and what a program of
lines returns. -/

namespace Sys2Proof.Machine

/-! ### The ports of a command line (R85) -/

section CommandPorts

variable {cfg : Config} {op : BitVec 4} {string : List Byte} {len sum crc : Option Byte}

/-- The characters that have a position stand there, and 0x00 after them. -/
theorem linePorts_msg_read (i : Nat) :
    (linePorts cfg op string len sum crc).msg.read i = if i < cfg.msgMax then string.getD i 0x00 else 0x00 := by
  rw [linePorts, Memory.read_writeString ⟨List.Pairwise.nil, nofun⟩]
  simp only [Nat.zero_le, true_and, Nat.zero_add, Nat.sub_zero, Memory.read_nil, unlistedChar, List.length_take,
    List.getD_eq_getElem?_getD, List.getElem?_take]
  by_cases hmax : i < cfg.msgMax
  · by_cases hi : i < string.length <;> simp [hmax, hi]
  · simp [hmax]

theorem linePorts_msg_wf : (linePorts cfg op string len sum crc).msg.wf := Memory.wf_string _

theorem linePorts_msg_below : (linePorts cfg op string len sum crc).msg.below cfg.msgMax :=
  Memory.below_writeString (by simp) 0 _ (by simp)

/-- In a line that can be spelt, a string without `len=` has a length that `MSG_LEN` can hold. -/
theorem linePorts_msgLen (hwf : (HostLine.command op string len sum crc).wf = true) :
    (linePorts cfg op string len sum crc).msgLen.toNat = (len.map BitVec.toNat).getD string.length := by
  cases len with
  | some n => rfl
  | none =>
    have hlen : string.length < 256 := by
      simp only [HostLine.wf, Option.isSome_none, Bool.false_or, Bool.and_eq_true, decide_eq_true_eq] at hwf
      exact hwf.2
    exact (BitVec.toNat_ofNat ..).trans (Nat.mod_eq_of_lt hlen)

end CommandPorts

/-! ### Where a line ends -/

theorem step_of_asserted {s : State} (h : s.ports.reset = true) : step s = .next s.assertReset := by
  rcases step_cases s with ⟨-, hs⟩ | ⟨hr, -⟩
  · exact hs
  · exact absurd (hr.symm.trans h) nofun

theorem runLine_reset (s : State) :
    runLine s .reset = .next ((s.setPorts { s.ports with reset := true }).assertReset, none) :=
  rfl

theorem runLine_command {s t : State} {op : BitVec 4} {string : List Byte} {len sum crc : Option Byte}
    (hwf : (HostLine.command op string len sum crc).wf = true)
    (h : step (s.setPorts (linePorts s.cfg op string len sum crc)) = .next t) :
    runLine s (.command op string len sum crc) = .next (t, none) := by
  rw [runLine, if_pos hwf]
  simp only [h, runLine.observe]

/-- R34: only `STATUS` is not 0. -/
theorem OutRegs.reset_get_of_ne_status {g : Reg} (hg : g ≠ .status) : OutRegs.reset.get g = 0 := by
  have hnumber : g.number = 0x00 → g = .status := by cases g <;> decide
  rw [OutRegs.reset_get, if_neg (hg ∘ hnumber)]

/-- Settles O8: a `RESET` line ends where the reset does, and the ports of a command line are `linePorts`. -/
theorem commandLineDrivesThePorts : Obligations.CommandLineDrivesThePorts := by
  refine ⟨fun s => ?_, fun s op string len sum crc hwf => ?_⟩
  · exact ⟨_, step_of_asserted rfl, runLine_reset s, rfl, fun _ => OutRegs.reset_get_of_ne_status, rfl, rfl⟩
  · refine ⟨linePorts s.cfg op string len sum crc, fun _ => runLine_command hwf, rfl, rfl, linePorts_msg_read, linePorts_msg_wf,
      linePorts_msg_below, ?_, rfl, rfl⟩
    rw [linePorts_msgLen hwf]
    cases len <;> rfl

/-! ### Lines complete (R210) -/

/-- The invariant says of the ports only that `MSG` is in canonical form, at positions that exist. -/
theorem State.Inv.setPorts {s : State} (h : s.Inv) {p : Ports} (hwf : p.msg.wf) (hbelow : p.msg.below s.cfg.msgMax) :
    (s.setPorts p).Inv := by
  obtain ⟨hl, -, hregs⟩ := h
  exact ⟨hl, ⟨hwf, hbelow⟩, hregs⟩

theorem step_completes {s : State} (h : s.Inv) : ∃ t, step s = .next t ∧ t.Inv ∧ t.cfg = s.cfg := by
  have hnext : ∃ q, step s = .next (s.setRegs q) := by
    rcases step_cases s with ⟨-, hs⟩ | ⟨-, hs⟩
    · exact ⟨_, hs⟩
    · obtain ⟨q, hq, -⟩ := exec_leaves (decodeOp s.ports.op) s h.1
      exact ⟨q, hs.trans hq⟩
  obtain ⟨q, hq⟩ := hnext
  exact ⟨_, hq, everyStepKeepsTheInvariant s _ h hq, rfl⟩

/-- A `READ` line: the one line that returns a value. -/
def HostLine.isRead : HostLine → Bool
  | .read _ => true
  | _ => false

theorem runLine_completes {s : State} {l : HostLine} (h : s.Inv) (hwf : l.wf = true) :
    ∃ t v, runLine s l = .next (t, v) ∧ t.Inv ∧ t.cfg = s.cfg ∧ v.toList.length = l.isRead.toNat := by
  cases l with
  | read n => exact ⟨s, _, rfl, h, rfl, rfl⟩
  | reset =>
    have ⟨_, ⟨hmsg, hbelow⟩, _⟩ := h
    have hinv := everyStepKeepsTheInvariant _ _ (h.setPorts (p := { s.ports with reset := true }) hmsg hbelow)
      (step_of_asserted rfl)
    exact ⟨_, none, runLine_reset s, hinv, rfl, rfl⟩
  | command op string len sum crc =>
    obtain ⟨t, hstep, ht, hcfg⟩ := step_completes (h.setPorts (p := linePorts s.cfg op string len sum crc) linePorts_msg_wf
      linePorts_msg_below)
    exact ⟨t, none, runLine_command hwf hstep, ht, hcfg, rfl⟩

/-! ### Programs (R249) -/

/-- A program runs its later lines from the state its first line left, and returns the values of both in order. -/
theorem runProgram_cons {s u : State} {l : HostLine} {ls : List HostLine} {ws : List Half} :
    runProgram s (l :: ls) = .next (u, ws)
      ↔ ∃ t v vs, runLine s l = .next (t, v) ∧ runProgram t ls = .next (u, vs) ∧ v.toList ++ vs = ws := by
  rw [runProgram]
  cases runLine s l with
  | next p =>
    obtain ⟨t, v⟩ := p
    cases hrest : runProgram t ls with
    | next q => simp [hrest, Prod.ext_iff]
    | fault f => simp [hrest]
    | refused r => simp [hrest]
  | fault f => simp
  | refused r => simp

theorem runProgram_append {s t u : State} {ks ls : List HostLine} {vs ws : List Half} (hk : runProgram s ks = .next (t, vs))
    (hl : runProgram t ls = .next (u, ws)) : runProgram s (ks ++ ls) = .next (u, vs ++ ws) := by
  induction ks generalizing s vs with
  | nil =>
    cases hk
    exact hl
  | cons k ks ih =>
    obtain ⟨r, v, us, hline, hrest, rfl⟩ := runProgram_cons.mp hk
    exact runProgram_cons.mpr ⟨r, v, us ++ ws, hline, ih hrest, (List.append_assoc ..).symm⟩

theorem runProgram_completes {s : State} {ls : List HostLine} (h : s.Inv) (hwf : ∀ l ∈ ls, l.wf = true) :
    ∃ t vs, runProgram s ls = .next (t, vs) ∧ t.Inv ∧ t.cfg = s.cfg ∧ vs.length = ls.countP HostLine.isRead := by
  induction ls generalizing s with
  | nil => exact ⟨s, [], rfl, h, rfl, rfl⟩
  | cons l ls ih =>
    obtain ⟨hl, hls⟩ := List.forall_mem_cons.mp hwf
    obtain ⟨t, v, hline, ht, htcfg, hv⟩ := runLine_completes h hl
    obtain ⟨u, vs, hrest, hu, hucfg, hvs⟩ := ih ht hls
    refine ⟨u, _, runProgram_cons.mpr ⟨t, v, vs, hline, hrest, rfl⟩, hu, hucfg.trans htcfg, ?_⟩
    rw [List.length_append, hv, hvs, List.countP_cons, Nat.add_comm]
    cases l.isRead <;> rfl

/-- Settles O44: programs complete line by line, and compose; a program of one line is the line before the empty program. -/
theorem hostProgramsRunToTheirEnd : Obligations.HostProgramsRunToTheirEnd := by
  refine ⟨fun ls s h hwf => ?_, fun _ => rfl, fun l s t v h => ?_, fun _ _ _ _ _ _ _ => runProgram_append⟩
  · obtain ⟨t, vs, hrun, ht, hcfg, hlen⟩ := runProgram_completes h hwf
    exact ⟨t, vs, hrun, ht, hcfg, hlen.trans List.countP_eq_length_filter⟩
  · exact runProgram_cons.mpr ⟨t, v, [], h, rfl, List.append_nil _⟩

end Sys2Proof.Machine
end

section
/-! The digit codec (R100 to R105): what a digit is, the number a string of digits spells, and the operations DIGIT, HEX and BCD. -/

namespace Sys2Proof.Machine

/-! ### Digits (R100, R104) -/

/-- The value of a character less than 16 above the offset of its range. -/
theorem some_offset_eq_iff {c offset : Byte} {d : Nibble} (hlo : offset.toNat ≤ c.toNat) (hhi : c.toNat < offset.toNat + 16) :
    some ((c - offset).setWidth 4) = some d ↔ d.toNat = c.toNat - offset.toNat := by
  have hd : c.toNat - offset.toNat < 2 ^ 4 := by omega
  rw [Option.some.injEq, ← BitVec.toNat_inj, BitVec.toNat_setWidth, BitVec.toNat_sub_of_le hlo, Nat.mod_eq_of_lt hd, eq_comm]

/-- Settles O9: one case for each range of the definition, and one outside both. -/
theorem digitValueMapsTheAlphabet : Obligations.DigitValueMapsTheAlphabet := by
  intro c d
  have h30 : (0x30 : Byte).toNat = 0x30 := rfl
  have h37 : (0x37 : Byte).toNat = 0x37 := rfl
  have hdec : 0x30 ≤ c ∧ c ≤ 0x39 ↔ 0x30 ≤ c.toNat ∧ c.toNat ≤ 0x39 := Iff.rfl
  have hhex : 0x41 ≤ c ∧ c ≤ 0x46 ↔ 0x41 ≤ c.toNat ∧ c.toNat ≤ 0x46 := Iff.rfl
  unfold digitValue
  simp only [hdec, hhex]
  split
  · rw [some_offset_eq_iff (by omega) (by omega)]
    omega
  · split
    · rw [some_offset_eq_iff (by omega) (by omega)]
      omega
    · simp only [reduceCtorEq, false_iff]
      omega

/-- A character is no BCD digit if it is no hex digit, or one of 10 or more. -/
theorem bcdDigit_eq_none {c : Byte} : bcdDigit c = none ↔ ∀ d, digitValue c = some d → 10 ≤ d.toNat := by
  simp only [Option.eq_none_iff_forall_ne_some, ne_eq, bcdDigit_eq_some, not_and, Nat.not_lt]

/-- A string of hex digits that are all below 10 is a string of BCD digits. -/
theorem map_bcdDigit_of_lt {s : List Byte} {ds : List Nibble} (h : s.map digitValue = ds.map some)
    (hlt : ∀ d ∈ ds, d.toNat < 10) : s.map bcdDigit = ds.map some := by
  rw [← h]
  refine List.map_congr_left fun c hc => ?_
  obtain ⟨d, hd, hcd⟩ := List.mem_map.mp (h ▸ List.mem_map_of_mem hc)
  rw [← hcd, bcdDigit_eq_some]
  exact ⟨hcd.symm, hlt d hd⟩

/-! ### The number a string of digits spells (R102, R104) -/

/-- The fold reads the most significant digit first; `Nat.ofDigits` takes the least significant one first. -/
theorem foldl_eq_ofDigits (base : Nat) (ds : List Nibble) :
    ds.foldl (fun r d => r * base + d.toNat) 0 = Nat.ofDigits base (ds.reverse.map BitVec.toNat) := by
  induction ds using List.reverseRecOn with
  | nil => rfl
  | append_singleton ds d ih =>
    rw [List.foldl_concat, ih, List.reverse_concat, List.map_cons, Nat.ofDigits_cons]
    ring

theorem foldDigits_eq_ofDigits {digit : Byte → Option Nibble} {s : List Byte} {ds : List Nibble}
    (h : s.map digit = ds.map some) (base : Nat) :
    foldDigits digit base s 0 = some (Nat.ofDigits base (ds.reverse.map BitVec.toNat)) := by
  rw [foldDigits_of_digits h, foldl_eq_ofDigits]

theorem ofDigits_lt_pow {base : Nat} (hbase : 1 < base) {digit : Byte → Option Nibble} {s : List Byte} {ds : List Nibble}
    (h : s.map digit = ds.map some) (hlt : ∀ d ∈ ds, d.toNat < base) :
    Nat.ofDigits base (ds.reverse.map BitVec.toNat) < base ^ s.length := by
  have hlen : (ds.reverse.map BitVec.toNat).length = s.length := by simpa using (congrArg List.length h).symm
  rw [← hlen]
  exact Nat.ofDigits_lt_base_pow_length hbase (by simpa using hlt)

/-- One character that is no digit raises InvalidDigit. -/
theorem foldDigits_eq_none {digit : Byte → Option Nibble} {s : List Byte} {c : Byte} (hc : c ∈ s) (h : digit c = none)
    (base r : Nat) : foldDigits digit base s r = none := by
  rw [← Option.not_isSome_iff_eq_none, foldDigits_isSome_iff]
  intro hall
  simpa [h] using hall c hc

/-- Settles O10: the fold in base 16 over the digits, each below 16. -/
theorem hexValueIsTheBase16Number : Obligations.HexValueIsTheBase16Number := fun _ =>
  ⟨fun _ h => ⟨foldDigits_eq_ofDigits h 16, ofDigits_lt_pow (by decide) h fun d _ => digit_lt d⟩,
    fun ⟨_, hc, hbad⟩ => foldDigits_eq_none hc hbad 16 0⟩

/-- Settles O11: the fold in base 10 over the same digits, which are BCD digits if they are all below 10. -/
theorem bcdDecimalIsTheDecimalNumber : Obligations.BcdDecimalIsTheDecimalNumber := fun _ =>
  ⟨fun _ h hlt => ⟨foldDigits_eq_ofDigits (map_bcdDigit_of_lt h hlt) 10, ofDigits_lt_pow (by decide) h hlt⟩,
    fun ⟨_, hc, hbad⟩ => foldDigits_eq_none hc (bcdDigit_eq_none.mpr hbad) 10 0⟩

/-! ### DIGIT (R101) -/

/-- Settles O12: the two ends of `opDigit`, each with the register file it writes over the cleared one. -/
theorem digitConvertsOneCharacter : Obligations.DigitConvertsOneCharacter := by
  refine ⟨rfl, fun s hl => ?_⟩
  rw [exec_eq_runOperation, operationOf]
  rcases opDigit_cases (x := s.snapshot) hl.1 s.regs.clear with ⟨hn, h⟩ | ⟨e, he, h⟩
  · refine ⟨fun d hd => absurd (hn.symm.trans hd) nofun, fun _ => ?_⟩
    rw [runOperation_fail h, OutRegs.clear_setStatus]
  · refine ⟨fun d hd => ?_, fun hn => absurd (hn.symm.trans he) nofun⟩
    obtain rfl : e = d := Option.some.inj (he.symm.trans hd)
    rw [runOperation_ok h, zext16, BitVec.ofNat_toNat]
    rfl

/-! ### HEX and BCD (R103, R105) -/

/-- The characters `MSG[0..MSG_LEN-1]`. -/
def State.message (s : State) : List Byte := (List.range s.msgLength).map s.msgChar

theorem State.message_length (s : State) : s.message.length = s.msgLength := by simp [State.message]

theorem State.map_digitValue_message (s : State) : s.message.map digitValue = (List.range s.msgLength).map s.msgDigit :=
  List.map_map

theorem State.msgChar_mem_message {s : State} {i : Nat} (hi : i < s.msgLength) : s.msgChar i ∈ s.message :=
  List.mem_map_of_mem (List.mem_range.mpr hi)

section Convert

variable {convert : List Byte → Option Nat} {s : State}

theorem runOperation_opConvert_of_long (hl : s.cfg.Legal) (hlen : 4 < s.msgLength) :
    runOperation (opConvert convert) s = .next (s.setRegs { OutRegs.reset with status := .malformedLength }) := by
  rcases opConvert_cases (x := s.snapshot) convert hl.1 s.regs.clear with ⟨-, h⟩ | ⟨hle, -⟩ | ⟨-, hle, -⟩
  · rw [runOperation_fail h, OutRegs.clear_setStatus]
  · exact absurd hlen hle.not_gt
  · exact absurd hlen hle.not_gt

theorem runOperation_opConvert_of_value (hl : s.cfg.Legal) (hlen : s.msgLength ≤ 4) {n : Nat} (hn : convert s.message = some n) :
    runOperation (opConvert convert) s
      = .next (s.setRegs { OutRegs.reset with status := .ok, result := zext16 n }) := by
  rcases opConvert_cases (x := s.snapshot) convert hl.1 s.regs.clear with ⟨hlt, -⟩ | ⟨-, hbad, -⟩ | ⟨m, -, hm, h⟩
  · exact absurd hlt hlen.not_gt
  · exact absurd (hbad.symm.trans hn) nofun
  · obtain rfl : m = n := Option.some.inj (hm.symm.trans hn)
    exact runOperation_ok h

theorem runOperation_opConvert_of_invalid (hl : s.cfg.Legal) (hlen : s.msgLength ≤ 4) (hbad : convert s.message = none) :
    runOperation (opConvert convert) s = .next (s.setRegs { OutRegs.reset with status := .invalidDigit }) := by
  rcases opConvert_cases (x := s.snapshot) convert hl.1 s.regs.clear with ⟨hlt, -⟩ | ⟨-, -, h⟩ | ⟨m, -, hm, -⟩
  · exact absurd hlt hlen.not_gt
  · rw [runOperation_fail h, OutRegs.clear_setStatus]
  · exact absurd (hm.symm.trans hbad) nofun

end Convert

/-- Settles O13: `hexValue` of the message, whose four digits fit the 16 bits of `RESULT`. -/
theorem hexParsesUpToFourDigits : Obligations.HexParsesUpToFourDigits := by
  refine ⟨rfl, fun s hl => ⟨runOperation_opConvert_of_long hl, fun ds hlen hds => ?_, fun i hlen hi hbad => ?_⟩⟩
  · obtain ⟨hvalue, hlt⟩ := (hexValueIsTheBase16Number s.message).1 ds (s.map_digitValue_message.trans hds)
    have hbound : 16 ^ s.message.length ≤ 16 ^ 4 := Nat.pow_le_pow_right (by decide) (s.message_length.trans_le hlen)
    exact ⟨_, zext16_toNat_of_lt (hlt.trans_le hbound), runOperation_opConvert_of_value hl hlen hvalue⟩
  · exact runOperation_opConvert_of_invalid hl hlen
      ((hexValueIsTheBase16Number s.message).2 ⟨_, State.msgChar_mem_message hi, hbad⟩)

/-- Settles O14: `bcdDecimal` of the message, whose four digits spell at most 9999. -/
theorem bcdConvertsUpToFourDigits : Obligations.BcdConvertsUpToFourDigits := by
  refine ⟨rfl, fun s hl => ⟨runOperation_opConvert_of_long hl, fun ds hlen hds hdec => ?_, fun i hlen hi hbad => ?_⟩⟩
  · obtain ⟨hvalue, hlt⟩ := (bcdDecimalIsTheDecimalNumber s.message).1 ds (s.map_digitValue_message.trans hds) hdec
    have hbound : 10 ^ s.message.length ≤ 10 ^ 4 := Nat.pow_le_pow_right (by decide) (s.message_length.trans_le hlen)
    have hle : Nat.ofDigits 10 (ds.reverse.map BitVec.toNat) ≤ 9999 := Nat.le_of_lt_succ (hlt.trans_le hbound)
    have hv := zext16_toNat_of_lt (Nat.lt_of_le_of_lt hle (by decide : 9999 < 65536))
    exact ⟨_, hv, hv.trans_le hle, runOperation_opConvert_of_value hl hlen hvalue⟩
  · exact runOperation_opConvert_of_invalid hl hlen
      ((bcdDecimalIsTheDecimalNumber s.message).2 ⟨_, State.msgChar_mem_message hi, hbad⟩)

end Sys2Proof.Machine
end

section
/-! The selector (R120 to R123) in terms of the ports, and IDENT (R126), which runs it alone. -/

namespace Sys2Proof.Machine

/-! ### Digits side by side (R102) -/

/-- A digit appended on the right is one step of the fold of R102. -/
theorem toNat_append_nibble {w : Nat} (x : BitVec w) (d : Nibble) : (x ++ d).toNat = x.toNat * 16 + d.toNat := by
  rw [BitVec.toNat_append, ← Nat.shiftLeft_add_eq_or_of_lt d.isLt, Nat.shiftLeft_eq]

/-- Four hex digits spell the 16 bits they make side by side. -/
theorem hexValue_four {s : List Byte} {a b c d : Nibble} (h : s.map digitValue = [a, b, c, d].map some) :
    hexValue s = some (a ++ b ++ c ++ d).toNat := by
  simp only [hexValue, foldDigits_of_digits h, List.foldl_cons, List.foldl_nil, toNat_append_nibble, Nat.zero_mul, Nat.zero_add]

/-! ### The selector -/

/-- The comparator of R120 compares the four characters one by one. -/
theorem State.map_read_eq_header_iff (s : State) : [0, 1, 2, 3].map s.snapshot.ports.msg.read = header ↔ s.HeaderMatches := by
  simp [State.HeaderMatches, State.msgChar, State.snapshot, header]

/-- R122: the ID string is `MSG[5], MSG[8], MSG[7], MSG[10]`. -/
theorem State.map_digitValue_idString (s : State) : s.snapshot.idString.map digitValue = [5, 8, 7, 10].map s.msgDigit := rfl

/-- An ID other than the two of R124 selects nothing. -/
theorem selectById_eq_none {id : Half} (hto : id ≠ 0xEC40) (hth : id ≠ 0x1D20) : selectById id = none := by
  rw [selectById, familyIdOf, familyIdOf, if_neg hto, if_neg hth]

/-- R190: the guards of stages HEADER and MINLEN, then SUBID and SELECT. -/
theorem selectProtocol_eq {x : Snapshot} (hmax : 25 ≤ x.cfg.msgMax) (r : OutRegs) : selectProtocol x r =
    if x.len ≤ 4 ∨ [0, 1, 2, 3].map x.ports.msg.read ≠ header then failWith .noDecoder r
    else if x.len ≤ 11 then failWith .malformedLength r.writeHeader
    else orInvalidDigit r.writeHeader (hexValue x.idString) >>= fun id =>
      stageSelect (r.writeHeader.writeFamilyId (zext16 id)) := by
  rcases selectProtocol_cases hmax r with ⟨hno, h⟩ | ⟨hlt, hh, hrest⟩
  · rw [h, if_pos hno]
  rw [if_neg (not_or_intro hlt.not_ge (not_not_intro hh))]
  rcases hrest with ⟨hle, h⟩ | ⟨hmin, hid, h⟩ | ⟨id, hmin, hid, hrest⟩
  · rw [h, if_pos hle]
  · rw [h, if_neg hmin.not_ge, hid, orInvalidDigit_none, failWith_bind]
  rw [if_neg hmin.not_ge, hid, orInvalidDigit_some, Stage.ok_bind, stageSelect, OutRegs.writeFamilyId_familyId]
  rcases hrest with ⟨hsel, h⟩ | ⟨sp, hsel, h⟩
  · rw [h, hsel]
  · rw [h, hsel]

section Selector

variable {s : State} (hl : s.cfg.Legal) (r : OutRegs)
include hl

theorem selectProtocol_of_noHeader (h : s.msgLength ≤ 4 ∨ ¬ s.HeaderMatches) :
    selectProtocol s.snapshot r = failWith .noDecoder r :=
  (selectProtocol_eq hl.1 r).trans (if_pos (h.imp_right (mt s.map_read_eq_header_iff.mp)))

/-- R121: with the header in place MINLEN is the next guard. -/
theorem selectProtocol_of_header (hlt : 4 < s.msgLength) (hh : s.HeaderMatches) : selectProtocol s.snapshot r =
    if s.msgLength ≤ 11 then failWith .malformedLength r.writeHeader
    else orInvalidDigit r.writeHeader (hexValue s.snapshot.idString) >>= fun id =>
      stageSelect (r.writeHeader.writeFamilyId (zext16 id)) :=
  (selectProtocol_eq hl.1 r).trans (if_neg (not_or_intro hlt.not_ge (not_not_intro (s.map_read_eq_header_iff.mpr hh))))

theorem selectProtocol_of_short (hlt : 4 < s.msgLength) (hh : s.HeaderMatches) (hle : s.msgLength ≤ 11) :
    selectProtocol s.snapshot r = failWith .malformedLength r.writeHeader := by
  rw [selectProtocol_of_header hl r hlt hh, if_pos hle]

/-- R122, R123: past both guards the ID string decides. -/
theorem selectProtocol_of_long (hlt : 11 < s.msgLength) (hh : s.HeaderMatches) :
    selectProtocol s.snapshot r = orInvalidDigit r.writeHeader (hexValue s.snapshot.idString) >>= fun id =>
      stageSelect (r.writeHeader.writeFamilyId (zext16 id)) := by
  rw [selectProtocol_of_header hl r (Nat.lt_trans (by decide) hlt) hh, if_neg hlt.not_ge]

theorem selectProtocol_of_badDigit (hlt : 11 < s.msgLength) (hh : s.HeaderMatches)
    (hbad : ∃ p ∈ [5, 8, 7, 10], s.msgDigit p = none) :
    selectProtocol s.snapshot r = failWith .invalidDigit r.writeHeader := by
  have hmem : none ∈ s.snapshot.idString.map digitValue := by
    rw [s.map_digitValue_idString]
    exact List.mem_map.mpr hbad
  rw [selectProtocol_of_long hl r hlt hh, (hexValueIsTheBase16Number _).2 (List.mem_map.mp hmem), orInvalidDigit_none,
    failWith_bind]

theorem selectProtocol_of_digits {a b c d : Nibble} (hlt : 11 < s.msgLength) (hh : s.HeaderMatches)
    (hds : [5, 8, 7, 10].map s.msgDigit = [a, b, c, d].map some) :
    selectProtocol s.snapshot r = stageSelect (r.writeHeader.writeFamilyId (a ++ b ++ c ++ d)) := by
  have hid := hexValue_four (s.map_digitValue_idString.trans hds)
  rw [selectProtocol_of_long hl r hlt hh, hid, orInvalidDigit_some, Stage.ok_bind, zext16, BitVec.ofNat_toNat,
    BitVec.setWidth_eq]

end Selector

/-! ### IDENT -/

/-- R126: what IDENT leaves of an ID of four digits: `SUBPROTO` and `STATUS` say whether SELECT recognised it. -/
def OutRegs.afterIdent (id : Half) : OutRegs :=
  { OutRegs.reset with
    status := if id = 0xEC40 ∨ id = 0x1D20 then .ok else .unknownSubprotocol
    hasReading := true
    sensorClass := 1
    familyId := id
    subproto := if id = 0xEC40 then 1 else if id = 0x1D20 then 2 else 0 }

section Ident

variable {s : State}

/-- IDENT fails where the selector does. -/
theorem exec_ident_of_fail {code : StatusCode} {q : OutRegs} (h : selectProtocol s.snapshot s.regs.clear = failWith code q) :
    exec .ident s = .next (s.setRegs (q.setStatus code)) := by
  have hop : opIdent s.snapshot s.regs.clear = failWith code q := by rw [opIdent_eq, h, failWith_bind]
  exact runOperation_fail hop

/-- IDENT ends with what the selector has written (R126). -/
theorem exec_ident_of_ok {sp : SubProtocol} {q : OutRegs} (h : selectProtocol s.snapshot s.regs.clear = .ok (sp, q)) :
    exec .ident s = .next (s.setRegs (q.setStatus .ok)) := by
  have hop : opIdent s.snapshot s.regs.clear = .ok q := by rw [opIdent_eq, h, Stage.ok_bind]
  exact runOperation_ok hop

/-- The three ways SELECT can go: each of the two IDs of R124, and any other. -/
theorem exec_ident_of_select {id : Half}
    (h : selectProtocol s.snapshot s.regs.clear = stageSelect (s.regs.clear.writeHeader.writeFamilyId id)) :
    exec .ident s = .next (s.setRegs (OutRegs.afterIdent id)) := by
  by_cases hto : id = 0xEC40
  · subst hto
    exact exec_ident_of_ok (sp := .tempOnly) h
  by_cases hth : id = 0x1D20
  · subst hth
    exact exec_ident_of_ok (sp := .tempHum) h
  rw [stageSelect, OutRegs.writeFamilyId_familyId, selectById_eq_none hto hth] at h
  rw [exec_ident_of_fail h, OutRegs.afterIdent, if_neg (not_or_intro hto hth), if_neg hto, if_neg hth]
  rfl

end Ident

/-- Settles O15: the four ends of the selector, each with the register file IDENT leaves of it. -/
theorem identSelectsTheSubProtocol : Obligations.IdentSelectsTheSubProtocol := by
  refine ⟨rfl, fun s hl => ⟨fun hno => ?_, fun hlt hh hle => ?_, fun hlt hh hbad => ?_,
    fun a b c d hlt hh ha hb hc hd => ?_⟩⟩
  · rw [exec_ident_of_fail (selectProtocol_of_noHeader hl _ hno), OutRegs.clear_setStatus]
  · exact exec_ident_of_fail (selectProtocol_of_short hl s.regs.clear hlt hh hle)
  · exact exec_ident_of_fail (selectProtocol_of_badDigit hl s.regs.clear hlt hh hbad)
  · have hds : [5, 8, 7, 10].map s.msgDigit = [a, b, c, d].map some := by simp [ha, hb, hc, hd]
    exact exec_ident_of_select (selectProtocol_of_digits hl s.regs.clear hlt hh hds)

end Sys2Proof.Machine
end

section
/-! The checksum comparison over hex digits (R147 to R149), and TSUM (R150), which runs it alone. -/

namespace Sys2Proof.Machine

/-! ### The checksum comparison (R149, R174, R176) -/

/-- Two hex digits side by side are the byte that carries them (R147, R148). -/
theorem hexValue_pair_eq_some {c e : Byte} {n : Nat} :
    hexValue [c, e] = some n ↔ ∃ a b, digitValue c = some a ∧ digitValue e = some b ∧ n = (a ++ b).toNat := by
  cases hc : digitValue c with
  | none => simp [hexValue, foldDigits_cons_none hc]
  | some a =>
    cases he : digitValue e with
    | none => simp [hexValue, foldDigits_cons_some hc, foldDigits_cons_none he]
    | some b => simp [hexValue, foldDigits_cons_some hc, foldDigits_cons_some he, toNat_append_nibble, eq_comm]

theorem byteOf_toNat (b : Byte) : byteOf b.toNat = b := BitVec.ofNat_toNat ..

/-- A checksum that fits 16 bits passes exactly if it is the number the transmitted byte holds. -/
theorem sumOk_iff {v : Nat} (hv : v < 65536) {tx : Byte} : sumOk v tx = true ↔ v = tx.toNat := by
  have htx : tx.toNat < 2 ^ 16 := Nat.lt_trans tx.isLt (by decide)
  rw [sumOk, beq_iff_eq, ← BitVec.toNat_inj, zext16_toNat_of_lt hv, BitVec.toNat_setWidth, Nat.mod_eq_of_lt htx]

/-- The sum of R149 is taken over the positions of the field mux table. -/
theorem digitSum_tempOnlySumPositions {read : Nat → Byte} {d : Nat → Nibble}
    (h : ∀ i ∈ tempOnlySumPositions, digitValue (read i) = some (d i)) :
    digitSum (tempOnlySumPositions.map read) 0 = some (tempOnlyDigitSum d) := by
  have hds : (tempOnlySumPositions.map read).map digitValue = (tempOnlySumPositions.map d).map some := by
    simpa using h
  rw [digitSum_of_digits hds]
  simp [tempOnlySumPositions, tempOnlyDigitSum, Nat.add_assoc]

/-! ### TSUM (R150) -/

/-- R150: the positions TSUM reads. -/
theorem mem_tsumPositions {i : Nat} : i ∈ sumTxPositions .tempOnly ++ tempOnlySumPositions ↔ i < 16 ∧ i ≠ 1 ∧ i ≠ 14 := by
  simp only [sumTxPositions, tempOnlySumPositions, List.cons_append, List.nil_append, List.mem_cons, List.not_mem_nil, or_false]
  omega

section Tsum

variable {s : State} (hl : s.cfg.Legal)
include hl

theorem exec_tsum_of_length (hlen : s.msgLength ≠ 16) :
    exec .tsum s = .next (s.setRegs { OutRegs.reset with status := .malformedLength }) := by
  rcases opTsum_cases (x := s.snapshot) hl.1 s.regs.clear with ⟨-, h⟩ | ⟨h16, -⟩ | ⟨-, -, h16, -⟩
  · exact runOperation_fail (r := s.regs.clear) h
  · exact absurd h16 hlen
  · exact absurd h16 hlen

/-- Every position but 1 and 14 holds a digit of one of the two sums, and a sum that answers has read digits only. -/
theorem exec_tsum_of_badDigit (hlen : s.msgLength = 16) {i : Nat} (hi : i ∈ sumTxPositions .tempOnly ++ tempOnlySumPositions)
    (hbad : s.msgDigit i = none) :
    exec .tsum s = .next (s.setRegs { OutRegs.reset with status := .invalidDigit }) := by
  rcases opTsum_cases (x := s.snapshot) hl.1 s.regs.clear with ⟨hne, -⟩ | ⟨-, -, h⟩ | ⟨tx, v, -, htx, hv, -⟩
  · exact absurd hlen hne
  · exact runOperation_fail (r := s.regs.clear) h
  · have htx := foldDigits_isSome_iff.mp (Option.isSome_of_eq_some htx)
    have hv := digitSum_isSome_iff.mp (Option.isSome_of_eq_some hv)
    have hgood : (s.msgDigit i).isSome := by
      rcases List.mem_append.mp hi with hi | hi
      · exact htx _ (List.mem_map_of_mem hi)
      · exact hv _ (List.mem_map_of_mem hi)
    simp [hbad] at hgood

theorem exec_tsum_of_digits (hlen : s.msgLength = 16) {d : Nat → Nibble}
    (hd : ∀ i ∈ sumTxPositions .tempOnly ++ tempOnlySumPositions, s.msgDigit i = some (d i)) :
    exec .tsum s = .next (s.setRegs
      { OutRegs.reset with
        status := if tempOnlyDigitSum d = 16 * (d 15).toNat + (d 12).toNat then .ok else .checksumMismatch
        sumCalc := BitVec.ofNat 16 (tempOnlyDigitSum d), sumTx := d 15 ++ d 12 }) := by
  have htx : hexValue ([15, 12].map s.msgChar) = some (d 15 ++ d 12).toNat :=
    hexValue_pair_eq_some.mpr ⟨d 15, d 12, hd 15 (by decide), hd 12 (by decide), rfl⟩
  have hsum : digitSum (tempOnlySumPositions.map s.msgChar) 0 = some (tempOnlyDigitSum d) :=
    digitSum_tempOnlySumPositions fun i hi => hd i (List.mem_append_right _ hi)
  have hle := tempOnly_sum_le hsum
  rcases opTsum_cases (x := s.snapshot) hl.1 s.regs.clear with ⟨hne, -⟩ | ⟨-, hbad | hbad, -⟩ | ⟨tx, v, -, htx', hsum', h⟩
  · exact absurd hlen hne
  · exact absurd (hbad.symm.trans htx) nofun
  · exact absurd (hbad.symm.trans hsum) nofun
  · obtain rfl : tx = _ := Option.some.inj (htx'.symm.trans htx)
    obtain rfl : v = _ := Option.some.inj (hsum'.symm.trans hsum)
    rw [byteOf_toNat] at h
    simp only [sumOk_iff (Nat.lt_of_le_of_lt hle (by decide)), toNat_append_nibble, Nat.mul_comm _ 16] at h
    split at h
    · next hok => rw [if_pos hok]; exact runOperation_ok h
    · next hno => rw [if_neg hno]; exact runOperation_fail h

end Tsum

/-- Settles O30: the three ends of `opTsum`; the positions of its two sums are all but 1 and 14. -/
theorem tsumChecksATempOnlyBody : Obligations.TsumChecksATempOnlyBody := by
  refine ⟨rfl, fun s hl => ⟨exec_tsum_of_length hl, fun i hlen hi h1 h14 hbad => ?_, fun d hlen hd => ?_⟩⟩
  · exact exec_tsum_of_badDigit hl hlen (mem_tsumPositions.mpr ⟨hi, h1, h14⟩) hbad
  · refine exec_tsum_of_digits hl hlen fun i hi => ?_
    obtain ⟨hlt, h1, h14⟩ := mem_tsumPositions.mp hi
    exact hd i hlt h1 h14

end Sys2Proof.Machine
end

section
/-! What the digits of a body make of DECODE's last stages (R193 to R198), and what a DECODE that accepts has found in the
message (R190). -/

namespace Sys2Proof.Machine

/-! ### The fields of a body (R193) -/

/-- Three BCD digits spell their decimal number (R104). -/
theorem bcdDecimal_three_eq_some {a b c : Byte} {n : Nat} (h : bcdDecimal [a, b, c] = some n) :
    ∃ p q r, bcdDigit a = some p ∧ bcdDigit b = some q ∧ bcdDigit c = some r ∧ n = 100 * p.toNat + 10 * q.toNat + r.toNat := by
  obtain ⟨ha, hb, hc⟩ : (bcdDigit a).isSome ∧ (bcdDigit b).isSome ∧ (bcdDigit c).isSome := by
    simpa using foldDigits_isSome_iff.mp (Option.isSome_of_eq_some h)
  obtain ⟨p, hp⟩ := Option.isSome_iff_exists.mp ha
  obtain ⟨q, hq⟩ := Option.isSome_iff_exists.mp hb
  obtain ⟨r, hr⟩ := Option.isSome_iff_exists.mp hc
  refine ⟨p, q, r, hp, hq, hr, ?_⟩
  rw [bcdDecimal, foldDigits_cons_some hp, foldDigits_cons_some hq, foldDigits_cons_some hr, foldDigits_nil,
    Option.some.injEq] at h
  omega

theorem batteryBit_eq (d : Nibble) : batteryBit d = d.getLsbD 2 := by revert d; decide

theorem signBit_eq (d : Nibble) : signBit d = d.getLsbD 3 := by revert d; decide

/-- Good digits are not bad ones. -/
theorem FieldsAre.not_bad {x : Snapshot} {sp : SubProtocol} {f : Fields} (h : FieldsAre x sp f) : ¬ FieldsBad x sp := by
  obtain ⟨raw, rolling, batt, sign, tx, h4, h7, h9, h10, h13, htx, -⟩ := h
  simp [FieldsBad, h4, h7, h9, h10, h13, htx]

/-- The digits determine the fields. -/
theorem FieldsAre.unique {x : Snapshot} {sp : SubProtocol} {f g : Fields} (hf : FieldsAre x sp f) (hg : FieldsAre x sp g) :
    f = g := by
  obtain ⟨raw, rolling, batt, sign, tx, h4, h7, h9, h10, h13, htx, hf⟩ := hf
  obtain ⟨raw', rolling', batt', sign', tx', h4', h7', h9', h10', h13', htx', hg⟩ := hg
  cases h4.symm.trans h4'
  cases h7.symm.trans h7'
  cases h9.symm.trans h9'
  cases h13.symm.trans h13'
  cases htx.symm.trans htx'
  rw [hf, hg, Option.some.inj (h10.symm.trans h10')]

/-- R196: with good digits the checksum decides how DECODE of a Temp-only body ends. -/
theorem decodeTempOnly_of_fields {x : Snapshot} (hmax : 25 ≤ x.cfg.msgMax) {f : Fields} {v : Nat} (hf : FieldsAre x .tempOnly f)
    (hv : digitSum (tempOnlySumPositions.map x.body) 0 = some v) (r : OutRegs) :
    decodeTempOnly x r = if sumOk v f.sumTx then .ok (commitFields (writeDiagnostics r f v) f)
      else failWith .checksumMismatch (writeDiagnostics r f v) := by
  rcases decodeTempOnly_cases hmax r with ⟨hbad | hbad, -⟩ | ⟨g, w, hg, hw, h⟩
  · exact absurd hbad hf.not_bad
  · exact absurd (hbad.symm.trans hv) nofun
  · cases hf.unique hg
    cases hv.symm.trans hw
    exact h

/-- R174, R175: with good digits the checksum and an enforced CRC decide how DECODE of a Temp+Humidity body ends. -/
theorem decodeTempHum_of_fields {x : Snapshot} (hmax : 25 ≤ x.cfg.msgMax) {f : Fields} {hum crc v : Nat} {c : Byte}
    (hf : FieldsAre x .tempHum f) (hh : bcdDecimal [x.body 15, x.body 12, humidityLastDigit] = some hum)
    (hcrc : hexValue [x.body 18, x.body 19] = some crc) (hv : vsum x.workingCopy = some v) (hc : vcrc x.workingCopy = some c)
    (r : OutRegs) :
    decodeTempHum x r = if sumOk v f.sumTx && crcAllows x.cfg.crcEnforced c (byteOf crc)
      then .ok ((commitFields ((writeDiagnostics r f v).writeCrcs c (byteOf crc)) f).commitHum (zext16 hum))
      else failWith .checksumMismatch ((writeDiagnostics r f v).writeCrcs c (byteOf crc)) := by
  rcases decodeTempHum_cases hmax r with ⟨hbad | hbad | hbad | hbad, -⟩ | ⟨g, hum', crc', w, c', hg, hh', hcrc', hw, hc', h⟩
  · exact absurd hbad hf.not_bad
  · exact absurd (hbad.symm.trans hh) nofun
  · exact absurd (hbad.symm.trans hcrc) nofun
  · exact absurd (hbad.symm.trans hv) nofun
  · cases hf.unique hg
    cases hh.symm.trans hh'
    cases hcrc.symm.trans hcrc'
    cases hv.symm.trans hw
    cases hc.symm.trans hc'
    exact h

/-! ### What an accepting DECODE has found -/

/-- What the selector has written when it recognises a sub-protocol (R120, R122, R123). -/
def OutRegs.select (r : OutRegs) (sp : SubProtocol) : OutRegs :=
  (r.writeHeader.writeFamilyId (familyIdOf sp)).writeSubproto (subprotoCode sp)

/-- The selector fails with an error code, or recognises one of the two IDs. -/
theorem selectProtocol_fails_or_selects {x : Snapshot} (hmax : 25 ≤ x.cfg.msgMax) (r : OutRegs) :
    (∃ code q, selectProtocol x r = failWith code q ∧ code ≠ .ok) ∨ ∃ sp, selectProtocol x r = .ok (sp, r.select sp) := by
  rcases selectProtocol_cases hmax r with ⟨-, h⟩ | ⟨-, -, ⟨-, h⟩ | ⟨-, -, h⟩ | ⟨id, -, -, ⟨-, h⟩ | ⟨sp, hid, h⟩⟩⟩
  · exact .inl ⟨_, _, h, nofun⟩
  · exact .inl ⟨_, _, h, nofun⟩
  · exact .inl ⟨_, _, h, nofun⟩
  · exact .inl ⟨_, _, h, nofun⟩
  · rw [selectById_eq_some hid] at h
    exact .inr ⟨sp, h⟩

/-- The two ways DECODE accepts a message: what each stage has found, and the register file it leaves. -/
inductive DecodeAccepts (s : State) : OutRegs → Prop where
  /-- Sub-protocol 0xEC40 (R193, R196, R198). -/
  | tempOnly {f : Fields} {v : Nat}
      (hsel : selectProtocol s.snapshot s.regs.clear = .ok (.tempOnly, s.regs.clear.select .tempOnly))
      (hlen : s.msgLength = 21) (hf : FieldsAre s.snapshot .tempOnly f)
      (hv : digitSum (tempOnlySumPositions.map s.snapshot.body) 0 = some v) (hsum : sumOk v f.sumTx = true) :
      DecodeAccepts s ((commitFields (writeDiagnostics (s.regs.clear.select .tempOnly) f v) f).setStatus .ok)
  /-- Sub-protocol 0x1D20 (R194, R174, R175, R198). -/
  | tempHum {f : Fields} {hum crc v : Nat} {c : Byte}
      (hsel : selectProtocol s.snapshot s.regs.clear = .ok (.tempHum, s.regs.clear.select .tempHum))
      (hlen : s.msgLength = 25) (hf : FieldsAre s.snapshot .tempHum f)
      (hh : bcdDecimal [s.snapshot.body 15, s.snapshot.body 12, humidityLastDigit] = some hum)
      (hcrc : hexValue [s.snapshot.body 18, s.snapshot.body 19] = some crc)
      (hv : vsum s.snapshot.workingCopy = some v) (hc : vcrc s.snapshot.workingCopy = some c) (hsum : sumOk v f.sumTx = true) :
      DecodeAccepts s
        (((commitFields ((writeDiagnostics (s.regs.clear.select .tempHum) f v).writeCrcs c (byteOf crc)) f).commitHum
          (zext16 hum)).setStatus .ok)

/-- DECODE fails with an error code, or accepts. -/
theorem opDecode_fails_or_accepts {s : State} (hl : s.cfg.Legal) :
    (∃ code q, opDecode s.snapshot s.regs.clear = failWith code q ∧ code ≠ .ok)
      ∨ ∃ q, opDecode s.snapshot s.regs.clear = .ok q ∧ DecodeAccepts s (q.setStatus .ok) := by
  have hmax : 25 ≤ s.snapshot.cfg.msgMax := hl.1
  rcases selectProtocol_fails_or_selects hmax s.regs.clear with ⟨code, q, h, hcode⟩ | ⟨sp, hsel⟩
  · exact .inl ⟨code, q, opDecode_of_select_fail h, hcode⟩
  have hd := opDecode_of_select hsel
  by_cases hlen : s.snapshot.len - 5 ≠ bodyLenOf sp
  · exact .inl ⟨_, _, hd.trans (if_pos hlen), nofun⟩
  rw [if_neg hlen] at hd
  have hlen : s.msgLength - 5 = bodyLenOf sp := not_not.mp hlen
  cases sp with
  | tempOnly =>
    rcases decodeTempOnly_cases hmax _ with ⟨-, h⟩ | ⟨f, v, hf, hv, h⟩
    · exact .inl ⟨_, _, hd.trans h, nofun⟩
    have hd := hd.trans h
    split at hd
    · next hsum => exact .inr ⟨_, hd, .tempOnly hsel (by simp only [bodyLenOf] at hlen; omega) hf hv hsum⟩
    · exact .inl ⟨_, _, hd, nofun⟩
  | tempHum =>
    rcases decodeTempHum_cases hmax _ with ⟨-, h⟩ | ⟨f, hum, crc, v, c, hf, hh, hcrc, hv, hc, h⟩
    · exact .inl ⟨_, _, hd.trans h, nofun⟩
    have hd := hd.trans h
    split at hd
    · next hpass =>
      obtain ⟨hsum, -⟩ := Bool.and_eq_true_iff.mp hpass
      exact .inr ⟨_, hd, .tempHum hsel (by simp only [bodyLenOf] at hlen; omega) hf hh hcrc hv hc hsum⟩
    · exact .inl ⟨_, _, hd, nofun⟩

theorem decodeAccepts_of_ok {s t : State} (hl : s.cfg.Legal) (h : exec .decode s = .next t) (hok : t.regs.status = .ok) :
    DecodeAccepts s t.regs := by
  rcases opDecode_fails_or_accepts hl with ⟨code, q, hop, hcode⟩ | ⟨q, hop, haccepts⟩
  · cases (runOperation_fail (op := opDecode) hop).symm.trans h
    exact absurd hok hcode
  · cases (runOperation_ok (op := opDecode) hop).symm.trans h
    exact haccepts

end Sys2Proof.Machine
end

section
/-! Two consequences of what an accepting DECODE has found: the Reading says what the digits on the wire say (R142 to R146), and
another digit in the transmitted checksum makes DECODE reject the message (R147 to R149, R174, R196). -/

namespace Sys2Proof.Machine

/-! ### An accepted Reading and the wire (R142 to R146) -/

/-- The digit at a position of the body, where there is one. -/
def State.wireDigit (s : State) (i : Nat) : Nibble := (s.bodyDigit i).getD 0

/-- The fields that the digits `d` of a body spell, beside the transmitted checksum (R142 to R145). -/
def fieldsOf (cfg : Config) (d : Nat → Nibble) (sumTx : Byte) : Fields where
  channel := mapChannel cfg (d 4)
  rolling := d 7 ++ d 6
  battLow := (d 9).getLsbD 2
  mag := 100 * (d 10).toNat + 10 * (d 11).toNat + (d 8).toNat
  neg := (d 13).getLsbD 3
  sumTx := sumTx

theorem signedTenths_eq_mul (neg : Bool) (mag : Nat) : signedTenths neg mag = (if neg then -1 else 1) * (mag : Int) := by
  cases neg <;> simp [signedTenths]

section Wire

variable {s : State}

theorem State.bodyDigit_eq_wireDigit {i : Nat} (h : (digitValue (s.snapshot.body i)).isSome) :
    s.bodyDigit i = some (s.wireDigit i) := by
  obtain ⟨d, hd⟩ : ∃ d, s.bodyDigit i = some d := Option.isSome_iff_exists.mp h
  rw [State.wireDigit, hd, Option.getD_some]

theorem State.wireDigit_eq {i : Nat} {d : Nibble} (h : digitValue (s.snapshot.body i) = some d) : s.wireDigit i = d :=
  congrArg (Option.getD · 0) h

/-- The characters of a BCD string that has a value are digits. -/
theorem isSome_digitValue_of_bcdDecimal {cs : List Byte} {n : Nat} (h : bcdDecimal cs = some n) {c : Byte} (hc : c ∈ cs) :
    (digitValue c).isSome := by
  obtain ⟨d, hd⟩ := Option.isSome_iff_exists.mp (foldDigits_isSome_iff.mp (Option.isSome_of_eq_some h) c hc)
  exact Option.isSome_of_eq_some (bcdDigit_eq_some.mp hd).1

/-- The characters of a hex string that has a value are digits. -/
theorem isSome_digitValue_of_hexValue {cs : List Byte} {n : Nat} (h : hexValue cs = some n) {c : Byte} (hc : c ∈ cs) :
    (digitValue c).isSome :=
  foldDigits_isSome_iff.mp (Option.isSome_of_eq_some h) c hc

/-- Every character the FIELDS stage of both sub-protocols has read is a digit. -/
theorem FieldsAre.isSome_digitValue {x : Snapshot} {sp : SubProtocol} {f : Fields} (h : FieldsAre x sp f) :
    ∀ i ∈ [4, 6, 7, 8, 9, 10, 11, 13] ++ sumTxPositions sp, (digitValue (x.body i)).isSome := by
  obtain ⟨raw, rolling, batt, sign, tx, h4, h7, h9, h10, h13, htx, -⟩ := h
  have hrolling {c} := isSome_digitValue_of_hexValue h7 (c := c)
  have hmag {c} := isSome_digitValue_of_bcdDecimal h10 (c := c)
  have hsum (i) (hi : i ∈ sumTxPositions sp) := isSome_digitValue_of_hexValue htx (List.mem_map_of_mem hi)
  refine List.forall_mem_append.mpr ⟨?_, hsum⟩
  simp [h4, h9, h13, hrolling, hmag]

/-- The fields are what the digits of the body spell. -/
theorem FieldsAre.eq_fieldsOf {sp : SubProtocol} {f : Fields} (h : FieldsAre s.snapshot sp f) :
    f = fieldsOf s.cfg s.wireDigit f.sumTx := by
  obtain ⟨raw, rolling, batt, sign, tx, h4, h7, h9, h10, h13, -, hf⟩ := h
  obtain ⟨a, b, ha, hb, rfl⟩ := hexValue_pair_eq_some.mp h7
  obtain ⟨p, q, r, h10, h11, h8, hmag⟩ := bcdDecimal_three_eq_some h10
  rw [hf, fieldsOf, State.wireDigit_eq h4, State.wireDigit_eq ha, State.wireDigit_eq hb, State.wireDigit_eq h9,
    State.wireDigit_eq h13, State.wireDigit_eq (bcdDigit_eq_some.mp h10).1, State.wireDigit_eq (bcdDigit_eq_some.mp h11).1,
    State.wireDigit_eq (bcdDigit_eq_some.mp h8).1, hmag, byteOf_toNat, batteryBit_eq, signBit_eq]
  rfl

namespace DecodeAccepts

variable {q : OutRegs}

/-- Of the fields both sub-protocols have, the registers hold what the digits of the body spell (R195, R198). -/
theorem fields (h : DecodeAccepts s q) :
    q.channel = mapChannel s.cfg (s.wireDigit 4) ∧ q.rolling = s.wireDigit 7 ++ s.wireDigit 6
      ∧ q.battLow = (s.wireDigit 9).getLsbD 2 ∧ q.tempNeg = (s.wireDigit 13).getLsbD 3
      ∧ q.temp.toInt = (if (s.wireDigit 13).getLsbD 3 then -1 else 1)
          * (100 * (s.wireDigit 10).toNat + 10 * (s.wireDigit 11).toNat + (s.wireDigit 8).toNat : Int) := by
  obtain ⟨sp, f, hf, hchannel, hrolling, hbatt, hneg, htemp⟩ : ∃ sp f, FieldsAre s.snapshot sp f ∧ q.channel = f.channel
      ∧ q.rolling = f.rolling ∧ q.battLow = f.battLow ∧ q.tempNeg = f.neg ∧ q.temp = twos16 (signedTenths f.neg f.mag) := by
    cases h with
    | tempOnly hsel hlen hf => exact ⟨_, _, hf, rfl, rfl, rfl, rfl, rfl⟩
    | tempHum hsel hlen hf => exact ⟨_, _, hf, rfl, rfl, rfl, rfl, rfl⟩
  have htemp : q.temp.toInt = (if f.neg then -1 else 1) * (f.mag : Int) := by
    rw [htemp, twos16_signedTenths_toInt hf.bounded.1, signedTenths_eq_mul]
  rw [hf.eq_fieldsOf] at hchannel hrolling hbatt hneg htemp
  exact ⟨hchannel, hrolling, hbatt, hneg, by simpa [fieldsOf] using htemp⟩

/-- Humidity belongs to sub-protocol 0x1D20 alone (R146, R198). -/
theorem humidity (h : DecodeAccepts s q) : (q.subproto = 1 → q.hum = 0 ∧ q.hasHum = false)
    ∧ (q.subproto = 2 → q.hum.toNat = 100 * (s.wireDigit 15).toNat + 10 * (s.wireDigit 12).toNat ∧ q.hasHum = true) := by
  cases h with
  | tempOnly => exact ⟨fun _ => ⟨rfl, rfl⟩, nofun⟩
  | @tempHum f hum crc v c hsel hlen hf hh hcrc hv hc hsum =>
    refine ⟨nofun, fun _ => ⟨?_, rfl⟩⟩
    have hval : (zext16 hum).toNat = hum := zext16_toNat_of_lt (Nat.lt_of_le_of_lt (humidity_range hh).1 (by decide))
    obtain ⟨p, q, r, h15, h12, hz, rfl⟩ := bcdDecimal_three_eq_some hh
    have hz : r = 0 := by simpa [bcdDigit, digitValue, humidityLastDigit] using hz.symm
    rw [State.wireDigit_eq (bcdDigit_eq_some.mp h15).1, State.wireDigit_eq (bcdDigit_eq_some.mp h12).1]
    subst hz
    exact hval

/-- Positions 12 and 15 carry the checksum of a Temp-only body and the humidity of a Temp+Humidity body. -/
theorem bodyDigit_eq (h : DecodeAccepts s q) :
    ∀ i ∈ [4, 6, 7, 8, 9, 10, 11, 12, 13, 15], s.bodyDigit i = some (s.wireDigit i) := by
  suffices hsome : ∀ i ∈ [4, 6, 7, 8, 9, 10, 11, 13] ++ [15, 12], (digitValue (s.snapshot.body i)).isSome from
    fun i hi => State.bodyDigit_eq_wireDigit (hsome i (by revert i; decide))
  cases h with
  | tempOnly hsel hlen hf => exact hf.isSome_digitValue
  | tempHum hsel hlen hf hh =>
    obtain ⟨hfields, -⟩ := List.forall_mem_append.mp hf.isSome_digitValue
    exact List.forall_mem_append.mpr ⟨hfields, by simp [isSome_digitValue_of_bcdDecimal hh]⟩

end DecodeAccepts
end Wire

/-- Settles O22: what an accepting DECODE has found, read as the digits of the body. -/
theorem acceptedReadingMatchesTheWire : Obligations.AcceptedReadingMatchesTheWire := by
  intro s t hl h hok
  have haccepts := decodeAccepts_of_ok hl h hok
  obtain ⟨hchannel, hrolling, hbatt, hneg, htemp⟩ := haccepts.fields
  obtain ⟨hhum1, hhum2⟩ := haccepts.humidity
  obtain ⟨-, hmap1, hmap2, hmap4⟩ := hl
  refine ⟨s.wireDigit, haccepts.bodyDigit_eq, hchannel, fun h4 => ?_, fun h4 => ?_, fun h4 => ?_, ?_, hbatt, hneg, htemp, hhum1,
    hhum2⟩
  · rw [hchannel, h4]
    exact hmap1
  · rw [hchannel, h4]
    exact hmap2
  · rw [hchannel, h4]
    exact hmap4
  · rw [hrolling, toNat_append_nibble, Nat.mul_comm]

/-! ### A message with another checksum digit (R147 to R149, R174, R196) -/

/-- A transmitted checksum determines its digits. -/
theorem digitValue_eq_of_byteOf_eq {c e c' e' : Byte} {m n : Nat} (hm : hexValue [c, e] = some m)
    (hn : hexValue [c', e'] = some n) (h : byteOf m = byteOf n) :
    digitValue c = digitValue c' ∧ digitValue e = digitValue e' := by
  obtain ⟨a, b, hc, he, rfl⟩ := hexValue_pair_eq_some.mp hm
  obtain ⟨a', b', hc', he', rfl⟩ := hexValue_pair_eq_some.mp hn
  rw [byteOf_toNat, byteOf_toNat, ← BitVec.toNat_inj, toNat_append_nibble, toNat_append_nibble] at h
  have := digit_lt b
  have := digit_lt b'
  have ha : a = a' := BitVec.eq_of_toNat_eq (by omega)
  have hb : b = b' := BitVec.eq_of_toNat_eq (by omega)
  exact ⟨by rw [hc, hc', ha], by rw [he, he', hb]⟩

/-- Only one byte passes the checksum. -/
theorem sumOk_unique {v : Nat} {a b : Byte} (ha : sumOk v a = true) (hb : sumOk v b = true) : a = b := by
  rw [sumOk, beq_iff_eq] at ha hb
  have h := ha.symm.trans hb
  rw [← BitVec.toNat_inj, BitVec.toNat_setWidth, BitVec.toNat_setWidth] at h
  have := a.isLt
  have := b.isLt
  exact BitVec.eq_of_toNat_eq (by omega)

/-- With the same characters at the other positions FIELDS reads, another good checksum makes the same fields but `sum_tx`. -/
theorem FieldsAre.withMsg {x : Snapshot} {m : Memory} {sp : SubProtocol} {f : Fields} (h : FieldsAre x sp f)
    (hbody : ∀ j ∈ [4, 6, 7, 8, 9, 10, 11, 13], (x.withMsg m).body j = x.body j) {tx : Nat}
    (htx : hexValue ((sumTxPositions sp).map (x.withMsg m).body) = some tx) :
    FieldsAre (x.withMsg m) sp { f with sumTx := byteOf tx } := by
  obtain ⟨raw, rolling, batt, sign, _, h4, h7, h9, h10, h13, -, hf⟩ := h
  simp only [List.forall_mem_cons] at hbody
  obtain ⟨b4, b6, b7, b8, b9, b10, b11, b13, -⟩ := hbody
  rw [← b4] at h4
  rw [← b7, ← b6] at h7
  rw [← b9] at h9
  rw [← b10, ← b11, ← b8] at h10
  rw [← b13] at h13
  exact ⟨raw, rolling, batt, sign, tx, h4, h7, h9, h10, h13, htx, by rw [hf]; rfl⟩

/-- The characters at the two checksum positions of `sp` spell `sum_tx`. -/
theorem FieldsAre.hexValue_sumTx {x : Snapshot} {sp : SubProtocol} {f : Fields} (h : FieldsAre x sp f) :
    ∃ tx, hexValue ((sumTxPositions sp).map x.body) = some tx ∧ f.sumTx = byteOf tx := by
  obtain ⟨_, _, _, _, tx, -, -, -, -, -, htx, hf⟩ := h
  exact ⟨tx, htx, by rw [hf]⟩

section OtherChecksumDigit

variable {s : State} {m : Memory} {sp : SubProtocol} {i : Nat}
  (hi : i ∈ sumTxPositions sp) (hm : ∀ p, p ≠ 5 + i → m.read p = s.msgChar p)

include hi hm

theorem body_otherChecksumDigit {j : Nat} (hj : j ∉ sumTxPositions sp) : (s.snapshot.withMsg m).body j = s.snapshot.body j :=
  hm (5 + j) fun h => hj (Nat.add_left_cancel h ▸ hi)

/-- The selector reads no checksum position (R63). -/
theorem selectProtocol_otherChecksumDigit (r : OutRegs) :
    selectProtocol (s.snapshot.withMsg m) r = selectProtocol s.snapshot r := by
  have h12 : ∀ sp, ∀ j ∈ sumTxPositions sp, 12 ≤ j := by intro sp; cases sp <;> decide
  have hi := h12 sp i hi
  refine selectProtocol_withMsg (fun p hp => hm p ?_) r
  rcases hp with ⟨-, hp⟩ | ⟨-, hp⟩
  · omega
  · simp only [List.mem_cons, List.not_mem_nil, or_false] at hp
    omega

/-- With another digit in the checksum every field is good as before, and `sum_tx` is another. -/
theorem FieldsAre.otherChecksumDigit {f : Fields} (h : FieldsAre s.snapshot sp f) {d : Nibble}
    (hd : digitValue (m.read (5 + i)) = some d) (hne : s.msgDigit (5 + i) ≠ some d) :
    ∃ g, FieldsAre (s.snapshot.withMsg m) sp g ∧ g.sumTx ≠ f.sumTx := by
  have hbody : ∀ j ∈ [4, 6, 7, 8, 9, 10, 11, 13], (s.snapshot.withMsg m).body j = s.snapshot.body j := fun j hj =>
    body_otherChecksumDigit hi hm (by revert j; cases sp <;> decide)
  have hdigits : ∀ c ∈ (sumTxPositions sp).map (s.snapshot.withMsg m).body, (digitValue c).isSome := by
    refine List.forall_mem_map.mpr fun j hj => ?_
    by_cases hji : j = i
    · subst hji
      exact Option.isSome_of_eq_some hd
    · have hsame : (s.snapshot.withMsg m).body j = s.snapshot.body j := hm _ (by omega)
      rw [hsame]
      exact h.isSome_digitValue j (List.mem_append_right _ hj)
  obtain ⟨tx, htx⟩ : ∃ tx, hexValue ((sumTxPositions sp).map (s.snapshot.withMsg m).body) = some tx :=
    Option.isSome_iff_exists.mp (foldDigits_isSome_iff.mpr hdigits)
  refine ⟨_, h.withMsg hbody htx, fun hsame => hne ?_⟩
  obtain ⟨tx', htx', hsum⟩ := h.hexValue_sumTx
  rw [hsum] at hsame
  have hall : ∀ j ∈ sumTxPositions sp, digitValue ((s.snapshot.withMsg m).body j) = digitValue (s.snapshot.body j) := by
    cases sp <;> simpa [sumTxPositions] using digitValue_eq_of_byteOf_eq htx htx' hsame
  exact (hall i hi).symm.trans hd

end OtherChecksumDigit

/-- R149, R196: a Temp-only body with good digits and a wrong checksum. -/
theorem opDecode_of_wrongSum_tempOnly {x : Snapshot} (hmax : 25 ≤ x.cfg.msgMax) {r q : OutRegs}
    (hsel : selectProtocol x r = .ok (.tempOnly, q)) (hlen : x.len = 21) {f : Fields} (hf : FieldsAre x .tempOnly f) {v : Nat}
    (hv : digitSum (tempOnlySumPositions.map x.body) 0 = some v) (hsum : ¬ sumOk v f.sumTx = true) :
    opDecode x r = failWith .checksumMismatch (writeDiagnostics q f v) := by
  have hbody : ¬ x.len - 5 ≠ bodyLenOf .tempOnly := not_not.mpr (congrArg (· - 5) hlen)
  rw [opDecode_of_select hsel, if_neg hbody]
  exact (decodeTempOnly_of_fields hmax hf hv q).trans (if_neg hsum)

/-- R174: a Temp+Humidity body with good digits and a wrong checksum, whatever its CRC. -/
theorem opDecode_of_wrongSum_tempHum {x : Snapshot} (hmax : 25 ≤ x.cfg.msgMax) {r q : OutRegs}
    (hsel : selectProtocol x r = .ok (.tempHum, q)) (hlen : x.len = 25) {f : Fields} (hf : FieldsAre x .tempHum f)
    {hum crc v : Nat} {c : Byte} (hh : bcdDecimal [x.body 15, x.body 12, humidityLastDigit] = some hum)
    (hcrc : hexValue [x.body 18, x.body 19] = some crc) (hv : vsum x.workingCopy = some v) (hc : vcrc x.workingCopy = some c)
    (hsum : ¬ sumOk v f.sumTx = true) :
    opDecode x r = failWith .checksumMismatch ((writeDiagnostics q f v).writeCrcs c (byteOf crc)) := by
  have hbody : ¬ x.len - 5 ≠ bodyLenOf .tempHum := not_not.mpr (congrArg (· - 5) hlen)
  rw [opDecode_of_select hsel, if_neg hbody]
  exact (decodeTempHum_of_fields hmax hf hh hcrc hv hc q).trans (if_neg fun hpass => hsum (Bool.and_eq_true_iff.mp hpass).1)

/-- Settles O25: the computed checksum is the same, so it is not the transmitted one. -/
theorem corruptedChecksumDigitIsRejected : Obligations.CorruptedChecksumDigitIsRejected := by
  intro s t m p d hl h hok hp hm hd hne
  have haccepts := decodeAccepts_of_ok hl h hok
  generalize t.regs = q at haccepts
  cases haccepts with
  | tempOnly hsel hlen hf hv hsum =>
    rw [if_pos hlen] at hp
    obtain ⟨i, hi, rfl⟩ : ∃ i ∈ sumTxPositions .tempOnly, 5 + i = p := List.mem_map.mp <|
      (by decide : ∀ p ∈ [17, 20], p ∈ (sumTxPositions .tempOnly).map (5 + ·)) p hp
    obtain ⟨g, hg, hother⟩ := hf.otherChecksumDigit hi hm hd hne
    have hsame : tempOnlySumPositions.map (s.snapshot.withMsg m).body = tempOnlySumPositions.map s.snapshot.body :=
      List.map_congr_left fun j hj => body_otherChecksumDigit hi hm (by revert j; decide)
    have hop := opDecode_of_wrongSum_tempOnly (x := s.snapshot.withMsg m) hl.1
      ((selectProtocol_otherChecksumDigit hi hm _).trans hsel) hlen hg (hsame ▸ hv)
      fun hpass => hother (sumOk_unique hpass hsum)
    exact ⟨_, runOperation_fail (s := s.withMsg m) hop, rfl, rfl⟩
  | tempHum hsel hlen hf hh hcrc hv hc hsum =>
    rw [if_neg (hlen ▸ by decide)] at hp
    obtain ⟨i, hi, rfl⟩ : ∃ i ∈ sumTxPositions .tempHum, 5 + i = p := List.mem_map.mp <|
      (by decide : ∀ p ∈ [21, 22], p ∈ (sumTxPositions .tempHum).map (5 + ·)) p hp
    obtain ⟨g, hg, hother⟩ := hf.otherChecksumDigit hi hm hd hne
    have hbody {j : Nat} := body_otherChecksumDigit hi hm (j := j)
    have hsame : (s.snapshot.withMsg m).workingCopy = s.snapshot.workingCopy :=
      congrArg swapPairs (List.map_congr_left fun j hj => hbody (by revert j; decide))
    rw [← hsame] at hv hc
    rw [← hbody (j := 15) (by decide), ← hbody (j := 12) (by decide)] at hh
    rw [← hbody (j := 18) (by decide), ← hbody (j := 19) (by decide)] at hcrc
    have hop := opDecode_of_wrongSum_tempHum (x := s.snapshot.withMsg m) hl.1
      ((selectProtocol_otherChecksumDigit hi hm _).trans hsel) hlen hg hh hcrc hv hc
      fun hpass => hother (sumOk_unique hpass hsum)
    exact ⟨_, runOperation_fail (s := s.withMsg m) hop, rfl, rfl⟩

end Sys2Proof.Machine
end

section
/-! The Validator over a span of even length, in the span's own positions (R170 to R173, R177): the working copy exchanges
neighbours, so the checksum and the CRC take the position `j ^^^ 1` where the rules write working index `j`. -/

namespace Sys2Proof.Machine

/-! ### The neighbour of a position -/

theorem xor_one_add_two (j : Nat) : (j + 2) ^^^ 1 = (j ^^^ 1) + 2 := by
  rcases Nat.even_or_odd j with hj | hj
  · rw [Nat.xor_one_of_even hj, Nat.xor_one_of_even (hj.add even_two)]
  · rw [Nat.xor_one_of_odd hj, Nat.xor_one_of_odd (hj.add_even even_two)]
    have := hj.pos
    omega

/-- No exchange crosses an even boundary. -/
theorem xor_one_lt_iff {n : Nat} (hn : n % 2 = 0) {i : Nat} : i ^^^ 1 < n ↔ i < n := by
  rcases Nat.even_or_odd i with hi | hi
  · rw [Nat.xor_one_of_even hi]
    have := Nat.even_iff.mp hi
    omega
  · rw [Nat.xor_one_of_odd hi]
    have := Nat.odd_iff.mp hi
    omega

/-! ### The working copy (R170) -/

/-- R170 at every index: beyond the span neither side holds a character. -/
theorem getElem?_swapPairs {span : List Byte} (heven : span.length % 2 = 0) (j : Nat) :
    (swapPairs span)[j]? = span[j ^^^ 1]? := by
  induction span using swapPairs.induct generalizing j with
  | case1 a b rest ih =>
    have hrest : rest.length % 2 = 0 := (Nat.add_mod_right ..).symm.trans heven
    match j with
    | 0 => rfl
    | 1 => rfl
    | j + 2 =>
      rw [xor_one_add_two]
      exact ih hrest j
  | case2 l h =>
    match l with
    | [] => rfl
    | [a] => exact absurd heven (by simp)
    | a :: b :: rest => exact absurd rfl (h a b rest)

/-- Settles O26: `getElem?_swapPairs`, for the indices the working copy has. -/
theorem workingCopySwapsNeighbours : Obligations.WorkingCopySwapsNeighbours := fun span heven =>
  ⟨swapPairs_length span, fun j _ => getElem?_swapPairs heven j⟩

/-! ### The positions the Validator reads (R171) -/

/-- The original positions in the order in which the working indices from 1 on take them. -/
def walkPositions (n : Nat) : List Nat := (List.range' 1 (n - 1)).map (· ^^^ 1)

/-- R171: every position but 1 is read. -/
theorem mem_walkPositions {n : Nat} (hn : n % 2 = 0) {i : Nat} : i ∈ walkPositions n ↔ i < n ∧ i ≠ 1 := by
  have hne : 1 ≤ i ^^^ 1 ↔ i ≠ 1 := by rw [Nat.one_le_iff_ne_zero, ne_eq, Nat.xor_eq_zero_iff]
  have hmem : i ∈ walkPositions n ↔ i ^^^ 1 ∈ List.range' 1 (n - 1) :=
    ⟨fun h => by
      obtain ⟨j, hj, rfl⟩ := List.mem_map.mp h
      rwa [Nat.xor_xor_cancel_right],
    fun h => List.mem_map.mpr ⟨_, h, Nat.xor_xor_cancel_right ..⟩⟩
  rw [hmem, List.mem_range'_1, hne, ← xor_one_lt_iff hn]
  omega

theorem nodup_walkPositions (n : Nat) : (walkPositions n).Nodup :=
  (List.nodup_range' 1).map Nat.xor_left_injective

/-- The walk takes each of the positions of R171 once. -/
theorem walkPositions_perm {n : Nat} (hn : n % 2 = 0) : (walkPositions n).Perm ((List.range n).filter (· ≠ 1)) := by
  rw [List.perm_ext_iff_of_nodup (nodup_walkPositions n) (List.nodup_range.filter _)]
  simp [mem_walkPositions hn]

/-- The part of the working copy that the checksum and the CRC read. -/
theorem drop_swapPairs_range {n : Nat} (hn : n % 2 = 0) (read : Nat → Byte) :
    (swapPairs ((List.range n).map read)).drop 1 = (walkPositions n).map read := by
  refine List.ext_getElem? fun j => ?_
  rw [List.getElem?_drop, getElem?_swapPairs (by simpa using hn)]
  have hlt := xor_one_lt_iff hn (i := 1 + j)
  by_cases hj : 1 + j < n
  · have hj' : j < n - 1 := by omega
    simp [walkPositions, hlt.mpr hj, hj']
  · have hj' : ¬ j < n - 1 := by omega
    simp [walkPositions, hj', mt hlt.mp hj]

/-! ### The checksum and the CRC of a span of digits (R171, R173) -/

/-- R173: the loop over the working indices from `j` on, their digits given by `e`. -/
theorem crcWalk_of_digits {n j : Nat} {crc : Byte} {cs : List Byte} {e : Nat → Nibble}
    (h : cs.map digitValue = (List.range' j n).map fun k => some (e k)) :
    crcWalk j crc cs = some ((List.range' j n).foldl (fun crc k => crcStep k crc (e k)) crc) := by
  induction cs generalizing j n crc with
  | nil =>
    obtain rfl : n = 0 := by simpa using congrArg List.length h.symm
    rfl
  | cons c cs ih =>
    obtain _ | n := n
    · simp at h
    rw [List.range'_succ, List.map_cons, List.map_cons, List.cons.injEq] at h
    rw [crcWalk_cons_some h.1, ih h.2, List.range'_succ, List.foldl_cons]

section SpanDigits

variable {n : Nat} (hn : n % 2 = 0) {read : Nat → Byte}
include hn

theorem map_digitValue_drop_swapPairs {d : Nat → Nibble} (hd : ∀ i, i < n → i ≠ 1 → digitValue (read i) = some (d i)) :
    ((swapPairs ((List.range n).map read)).drop 1).map digitValue = ((walkPositions n).map d).map some := by
  rw [drop_swapPairs_range hn, List.map_map, List.map_map]
  refine List.map_congr_left fun i hi => ?_
  obtain ⟨hlt, h1⟩ := (mem_walkPositions hn).mp hi
  exact hd i hlt h1

/-- R171: the checksum is the sum over every position but 1. -/
theorem vsum_of_digits {d : Nat → Nibble} (hd : ∀ i, i < n → i ≠ 1 → digitValue (read i) = some (d i)) :
    vsum (swapPairs ((List.range n).map read)) = some (spanDigitSum n d) := by
  rw [vsum, digitSum_of_digits (map_digitValue_drop_swapPairs hn hd), Nat.zero_add, List.map_map]
  exact congrArg some ((walkPositions_perm hn).map _).sum_eq

/-- R173: the CRC is the loop of the rule over the digits. -/
theorem vcrc_of_digits {d : Nat → Nibble} (hd : ∀ i, i < n → i ≠ 1 → digitValue (read i) = some (d i)) :
    vcrc (swapPairs ((List.range n).map read)) = some (spanDigitCrc n d) := by
  have hdigits := map_digitValue_drop_swapPairs hn hd
  rw [walkPositions, List.map_map, List.map_map] at hdigits
  have hlen : (swapPairs ((List.range n).map read)).length % 2 = 0 := by simpa using hn
  simp only [vcrc, crcWalk_of_digits hdigits, if_pos hlen]
  rfl

/-- R171: a character at a position the Validator reads that is no digit makes it fail. -/
theorem vsum_eq_none {i : Nat} (hi : i < n) (h1 : i ≠ 1) (hbad : digitValue (read i) = none) :
    vsum (swapPairs ((List.range n).map read)) = none := by
  rw [← Option.not_isSome_iff_eq_none, vsum, digitSum_isSome_iff, drop_swapPairs_range hn]
  intro hall
  simpa [hbad] using hall _ (List.mem_map_of_mem ((mem_walkPositions hn).mpr ⟨hi, h1⟩))

end SpanDigits

/-! ### The CRC over 16 digits (R177) -/

/-- R177: the loop of R173 over 16 digits, unrolled. -/
theorem spanDigitCrc_sixteen (d : Nat → Nibble) : spanDigitCrc 16 d = bodyOrderCrc d := rfl

/-- Settles O27: a span is the list of its characters, and the loop of R173 over it is the walk of R177. -/
theorem crcWalkInBodyOrder : Obligations.CrcWalkInBodyOrder := by
  intro span d hlen hd
  have hspan : (List.range 16).map (span.getD · 0) = span :=
    List.ext_getElem (by simp [hlen]) fun i _ hi => by simp [List.getElem?_eq_getElem hi]
  have hdigits (i : Nat) (hi : i < 16) (h1 : i ≠ 1) : digitValue (span.getD i 0) = some (d i) := by
    have h := hd i hi h1
    rw [List.getElem?_eq_getElem (by omega), Option.bind_some] at h
    rwa [List.getD_eq_getElem _ _ (by omega)]
  rw [← hspan, vcrc_of_digits (by decide) hdigits, spanDigitCrc_sixteen]

end Sys2Proof.Machine
end

section
/-! VALIDATE (R176): its three ends in terms of the ports, and that the CRC detects every change of a single digit (R172, R173). -/

namespace Sys2Proof.Machine

/-! ### VALIDATE, all its ends (R175, R176) -/

/-- An operation whose last line is a check of what it has written (R175). -/
theorem runOperation_check {op : Snapshot → OutRegs → Stage OutRegs} {s : State} {pass : Bool} {r : OutRegs}
    (h : op s.snapshot s.regs.clear = if pass then .ok r else failWith .checksumMismatch r) :
    runOperation op s = .next (s.setRegs (r.setStatus (if pass then .ok else .checksumMismatch))) := by
  cases pass with
  | true => exact runOperation_ok h
  | false => exact runOperation_fail h

/-- R176: what VALIDATE leaves of a span with checksum `v` and CRC `c`. -/
def State.afterValidate (s : State) (v : Nat) (c : Byte) : OutRegs :=
  ((OutRegs.reset.writeSums (zext16 v) s.ports.argSum).writeCrcs c s.ports.argCrc).setStatus
    (if sumOk v s.ports.argSum && crcAllows s.cfg.crcEnforced c s.ports.argCrc then .ok else .checksumMismatch)

section Validate

variable {s : State}

theorem exec_validate_of_length (hlen : s.cfg.msgMax < s.msgLength ∨ s.msgLength % 2 = 1) :
    exec .validate s = .next (s.setRegs { OutRegs.reset with status := .malformedLength }) :=
  runOperation_fail (op := opValidate) (r := s.regs.clear) (if_pos hlen)

variable (hle : s.msgLength ≤ s.cfg.msgMax) (heven : s.msgLength % 2 = 0)
include hle heven

theorem exec_validate_of_invalid (hbad : vsum (swapPairs s.message) = none) :
    exec .validate s = .next (s.setRegs { OutRegs.reset with status := .invalidDigit }) := by
  rcases opValidate_cases (x := s.snapshot) s.regs.clear with ⟨hlen, -⟩ | ⟨-, -, ⟨-, h⟩ | ⟨v, c, hv, -⟩⟩
  · have hlen : s.cfg.msgMax < s.msgLength ∨ s.msgLength % 2 = 1 := hlen
    omega
  · exact runOperation_fail (r := s.regs.clear) h
  · exact absurd (hbad.symm.trans hv) nofun

theorem exec_validate_of_sums {v : Nat} {c : Byte} (hv : vsum (swapPairs s.message) = some v)
    (hc : vcrc (swapPairs s.message) = some c) : exec .validate s = .next (s.setRegs (s.afterValidate v c)) := by
  rcases opValidate_cases (x := s.snapshot) s.regs.clear with ⟨hlen, -⟩ | ⟨-, -, ⟨hbad, -⟩ | ⟨v', c', hv', hc', h⟩⟩
  · have hlen : s.cfg.msgMax < s.msgLength ∨ s.msgLength % 2 = 1 := hlen
    omega
  · exact absurd (hbad.symm.trans hv) nofun
  · cases hv.symm.trans hv'
    cases hc.symm.trans hc'
    exact (runOperation_check h :)

theorem exec_validate_of_badDigit {i : Nat} (hi : i < s.msgLength) (h1 : i ≠ 1) (hbad : s.msgDigit i = none) :
    exec .validate s = .next (s.setRegs { OutRegs.reset with status := .invalidDigit }) :=
  exec_validate_of_invalid hle heven (vsum_eq_none heven hi h1 hbad)

theorem exec_validate_of_digits {d : Nat → Nibble} (hd : ∀ i, i < s.msgLength → i ≠ 1 → s.msgDigit i = some (d i)) :
    exec .validate s
      = .next (s.setRegs (s.afterValidate (spanDigitSum s.msgLength d) (spanDigitCrc s.msgLength d))) :=
  exec_validate_of_sums hle heven (vsum_of_digits heven hd) (vcrc_of_digits heven hd)

end Validate

/-- R175: the CRC passes if it matches or is not enforced. -/
theorem crcAllows_iff {enforced : Bool} {computed tx : Byte} :
    crcAllows enforced computed tx = true ↔ (enforced = true → computed = tx) := by
  cases enforced <;> simp [crcAllows]

/-- The checksum of a span that `MSG_LEN` can count fits `SUM_CALC` (R10, R171). -/
theorem spanDigitSum_lt {n : Nat} (hn : n < 256) (d : Nat → Nibble) : spanDigitSum n d < 65536 := by
  have hle : spanDigitSum n d ≤ (((List.range n).filter (· ≠ 1)).map fun i => (d i).toNat).length • 15 :=
    List.sum_le_card_nsmul _ _ fun m hm => by
      obtain ⟨i, -, rfl⟩ := List.mem_map.mp hm
      exact Nat.le_of_lt_succ (digit_lt (d i))
  have hlen := List.length_filter_le (· ≠ 1) (List.range n)
  simp only [List.length_map, List.length_range, smul_eq_mul] at hle hlen
  omega

/-- Settles O28: the three ends of `opValidate`; a checksum that fits 16 bits is compared as a number. -/
theorem validateChecksTheSpan : Obligations.ValidateChecksTheSpan := by
  refine ⟨rfl, fun s _ => ⟨exec_validate_of_length, fun i hle heven => exec_validate_of_badDigit hle heven,
    fun d hle heven hd => ?_⟩⟩
  have hsum : spanDigitSum s.msgLength d < 65536 := spanDigitSum_lt s.snapshot.len_lt d
  have hval : (zext16 (spanDigitSum s.msgLength d)).toNat = spanDigitSum s.msgLength d := zext16_toNat_of_lt hsum
  refine ⟨_, hval, ?_⟩
  rw [exec_validate_of_digits hle heven hd, State.afterValidate]
  simp only [Bool.and_eq_true, sumOk_iff hsum, crcAllows_iff, hval]
  rfl

/-! ### The CRC and its digits (R172, R173) -/

/-- R172 backwards: `crcPoly` is odd, so bit 0 after a round is the bit that the round has shifted out. -/
def crcUnround (c : Byte) : Byte := if c.getLsbD 0 then ((c ^^^ crcPoly) >>> 1) ||| 0x80 else c >>> 1

theorem crcUnround_crcRound : Function.LeftInverse crcUnround crcRound := by
  unfold Function.LeftInverse
  decide

theorem crcRound4_injective : Function.Injective crcRound4 :=
  have h := crcUnround_crcRound.injective
  h.comp (h.comp (h.comp h))

/-- R173: a step loses nothing of the CRC before it. -/
theorem crcStep_injective_crc (j : Nat) (d : Nibble) : Function.Injective fun crc => crcStep j crc d := by
  intro a b h
  simp only [crcStep] at h
  split at h
  · exact (BitVec.xor_left_inj _).mp h
  · exact (BitVec.xor_left_inj _).mp (crcRound4_injective h)

/-- R173: a step loses nothing of its digit. -/
theorem crcStep_injective_digit (j : Nat) (crc : Byte) : Function.Injective (crcStep j crc) := by
  have hwidth {d e : Nibble} (h : d.setWidth 8 = e.setWidth 8) : d = e := by
    revert d e
    decide
  intro d e h
  simp only [crcStep] at h
  split at h
  · exact hwidth ((BitVec.xor_right_inj _).mp h)
  · exact hwidth ((BitVec.xor_right_inj _).mp (crcRound4_injective h))

/-- The loop of R173 loses nothing of the CRC it starts from. -/
theorem foldl_crcStep_injective (e : Nat → Nibble) (js : List Nat) :
    Function.Injective fun crc => js.foldl (fun crc j => crcStep j crc (e j)) crc := by
  induction js with
  | nil => exact Function.injective_id
  | cons j js ih => exact ih.comp (crcStep_injective_crc j (e j))

/-- Two loops of R173 whose digits differ at one index end differently: they are alike before that index, its step tells them
apart, and no step after it brings them together. -/
theorem foldl_crcStep_ne {js : List Nat} (hnodup : js.Nodup) {k : Nat} (hk : k ∈ js) {e e' : Nat → Nibble}
    (hsame : ∀ j, j ≠ k → e j = e' j) (hne : e k ≠ e' k) (crc : Byte) :
    js.foldl (fun crc j => crcStep j crc (e j)) crc ≠ js.foldl (fun crc j => crcStep j crc (e' j)) crc := by
  obtain ⟨before, after, rfl⟩ := List.append_of_mem hk
  obtain ⟨hbefore, hafter⟩ : k ∉ before ∧ k ∉ after := by
    have := List.nodup_middle.mp hnodup
    simpa using this.notMem
  have alike {l : List Nat} (hl : k ∉ l) (crc : Byte) :
      l.foldl (fun crc j => crcStep j crc (e j)) crc = l.foldl (fun crc j => crcStep j crc (e' j)) crc :=
    List.foldl_ext _ _ _ fun crc j hj => by rw [hsame j fun h => hl (h ▸ hj)]
  rw [List.foldl_append, List.foldl_append, List.foldl_cons, List.foldl_cons, alike hbefore, alike hafter]
  exact fun h => hne (crcStep_injective_digit k _ (foldl_crcStep_injective e' after h))

/-- The loop of `spanDigitCrc` in steps of `crcStep`. -/
theorem spanDigitCrc_eq (n : Nat) (d : Nat → Nibble) : spanDigitCrc n d
    = crcRound4 ((List.range' 1 (n - 1)).foldl (fun crc j => crcStep j crc (d (j ^^^ 1))) crcInit) := rfl

/-- Another digit at one position the Validator reads makes another CRC. -/
theorem spanDigitCrc_update_ne {n : Nat} (hn : n % 2 = 0) {p : Nat} (hp : p < n) (h1 : p ≠ 1) {d : Nat → Nibble} {b : Nibble}
    (hb : d p ≠ b) : spanDigitCrc n d ≠ spanDigitCrc n (Function.update d p b) := by
  obtain ⟨k, hk, rfl⟩ := List.mem_map.mp ((mem_walkPositions hn).mpr ⟨hp, h1⟩)
  rw [spanDigitCrc_eq, spanDigitCrc_eq]
  refine crcRound4_injective.ne (foldl_crcStep_ne (List.nodup_range' 1) hk (fun j hj => ?_) ?_ crcInit)
  · exact (Function.update_of_ne (Nat.xor_left_injective.ne hj) ..).symm
  · rwa [Function.update_self]

/-- A VALIDATE that has computed a CRC has found a span of even length that fits, and digits in it (R176). -/
theorem digits_of_validate_crcPresent {s t : State} (h : exec .validate s = .next t) (hcrc : t.regs.crcPresent = true) :
    s.msgLength ≤ s.cfg.msgMax ∧ s.msgLength % 2 = 0
      ∧ ∃ d : Nat → Nibble, ∀ i, i < s.msgLength → i ≠ 1 → s.msgDigit i = some (d i) := by
  have absent {code : StatusCode} (hno : exec .validate s = .next (s.setRegs { OutRegs.reset with status := code })) : False := by
    cases hno.symm.trans h
    cases hcrc
  by_cases hlen : s.cfg.msgMax < s.msgLength ∨ s.msgLength % 2 = 1
  · exact (absent (exec_validate_of_length hlen)).elim
  obtain ⟨hle, heven⟩ : s.msgLength ≤ s.cfg.msgMax ∧ s.msgLength % 2 = 0 := by omega
  refine ⟨hle, heven, fun i => (s.msgDigit i).getD 0, fun i hi h1 => ?_⟩
  cases hd : s.msgDigit i with
  | none => exact (absent (exec_validate_of_badDigit hle heven hi h1 hd)).elim
  | some d => simp [hd]

/-- Settles O29: with another digit in the span VALIDATE computes its CRC over digits again, and `spanDigitCrc_update_ne`. -/
theorem crcDetectsAnySingleDigitChange : Obligations.CrcDetectsAnySingleDigitChange := by
  intro s t u m p a b _ hm hp h1 ha hb hab ht hu hcrc
  obtain ⟨hle, heven, d, hd⟩ := digits_of_validate_crcPresent ht hcrc
  obtain rfl : d p = a := Option.some.inj ((hd p hp h1).symm.trans ha)
  have hd' (i : Nat) (hi : i < s.msgLength) (hi1 : i ≠ 1) : (s.withMsg m).msgDigit i = some (Function.update d p b i) := by
    by_cases hip : i = p
    · rw [hip, Function.update_self]
      exact hb
    · rw [Function.update_of_ne hip, ← hd i hi hi1]
      exact congrArg digitValue (hm i hip)
  cases (exec_validate_of_digits hle heven hd).symm.trans ht
  cases (exec_validate_of_digits (s := s.withMsg m) hle heven hd').symm.trans hu
  exact ⟨rfl, spanDigitCrc_update_ne heven hp h1 hab⟩

end Sys2Proof.Machine
end

section
/-! The CRC gates an operation exactly when it is enforced (R174, R175): not enforced, the transmitted CRC reaches `CRC_TX` and
`CRC_MATCH` alone; enforced, nothing that has a CRC ends with OK unless it matches. -/

namespace Sys2Proof.Machine

/-- The two register files differ at most in `CRC_TX` and `CRC_MATCH`. -/
def OutRegs.SameButCrcTx (q r : OutRegs) : Prop := { q with crcTx := r.crcTx, crcMatch := r.crcMatch } = r

theorem crcAllows_of_not_enforced {enforced : Bool} (h : enforced = false) (computed tx : Byte) :
    crcAllows enforced computed tx = true :=
  crcAllows_iff.mpr fun he => absurd (h.symm.trans he) nofun

/-! ### VALIDATE with another `ARG_CRC` (R176) -/

/-- R175 for VALIDATE: each end of VALIDATE is the same end with the other operand. -/
theorem exec_validate_withArgCrc {s t : State} (hfree : s.cfg.crcEnforced = false) (h : exec .validate s = .next t) (tx : Byte) :
    ∃ u, exec .validate (s.withArgs s.ports.argSum tx) = .next u ∧ u.regs.SameButCrcTx t.regs := by
  by_cases hlen : s.cfg.msgMax < s.msgLength ∨ s.msgLength % 2 = 1
  · cases (exec_validate_of_length hlen).symm.trans h
    exact ⟨_, exec_validate_of_length (s := s.withArgs s.ports.argSum tx) hlen, rfl⟩
  obtain ⟨hle, heven⟩ : s.msgLength ≤ s.cfg.msgMax ∧ s.msgLength % 2 = 0 := by omega
  cases hv : vsum (swapPairs s.message) with
  | none =>
    cases (exec_validate_of_invalid hle heven hv).symm.trans h
    exact ⟨_, exec_validate_of_invalid (s := s.withArgs s.ports.argSum tx) hle heven hv, rfl⟩
  | some v =>
    obtain ⟨c, hc⟩ := Option.isSome_iff_exists.mp (vcrc_isSome_iff.mpr (Option.isSome_of_eq_some hv))
    cases (exec_validate_of_sums hle heven hv hc).symm.trans h
    refine ⟨_, exec_validate_of_sums (s := s.withArgs s.ports.argSum tx) hle heven hv hc, ?_⟩
    simp only [State.setRegs_regs, State.afterValidate, State.withArgs, State.setPorts_cfg, State.setPorts_ports,
      crcAllows_of_not_enforced hfree]
    rfl

/-! ### DECODE with other CRC digits (R174) -/

/-- What the last stages of DECODE find in a Temp+Humidity body beside the transmitted CRC: good fields, a humidity, and the
checksum and CRC they compute. -/
def TempHumBodyIs (x : Snapshot) (f : Fields) (hum v : Nat) (c : Byte) : Prop :=
  FieldsAre x .tempHum f ∧ bcdDecimal [x.body 15, x.body 12, humidityLastDigit] = some hum
    ∧ vsum x.workingCopy = some v ∧ vcrc x.workingCopy = some c

/-- None of it depends on the two CRC positions. -/
theorem tempHumBodyIs_withMsg {x : Snapshot} {m : Memory} (hbody : ∀ j, j < 18 → (x.withMsg m).body j = x.body j) {f : Fields}
    {hum v : Nat} {c : Byte} : TempHumBodyIs (x.withMsg m) f hum v c ↔ TempHumBodyIs x f hum v c := by
  have hcopy : (x.withMsg m).workingCopy = x.workingCopy :=
    congrArg swapPairs (List.map_congr_left fun j hj => hbody j (Nat.lt_trans (List.mem_range.mp hj) (by decide)))
  have hsum : (sumTxPositions .tempHum).map (x.withMsg m).body = (sumTxPositions .tempHum).map x.body :=
    List.map_congr_left fun j hj => hbody j (by revert j; decide)
  unfold TempHumBodyIs FieldsAre
  simp (disch := decide) only [hbody, hcopy, hsum, Snapshot.withMsg_cfg]

/-- With a good transmitted CRC the rest of the body is good, or DECODE's last stages end with INVALID_DIGIT. -/
theorem decodeTempHum_invalid_or_good {x : Snapshot} (hmax : 25 ≤ x.cfg.msgMax) {tx : Nat}
    (htx : hexValue [x.body 18, x.body 19] = some tx) (r : OutRegs) :
    ((∀ f hum v c, ¬ TempHumBodyIs x f hum v c) ∧ decodeTempHum x r = failWith .invalidDigit r)
      ∨ ∃ f hum v c, TempHumBodyIs x f hum v c := by
  rcases decodeTempHum_cases hmax r with ⟨hbad, h⟩ | ⟨f, hum, -, v, c, hf, hh, -, hv, hc, -⟩
  · refine .inl ⟨fun f hum v c ⟨hf, hh, hv, _⟩ => ?_, h⟩
    rcases hbad with hbad | hbad | hbad | hbad
    · exact hf.not_bad hbad
    · exact absurd (hbad.symm.trans hh) nofun
    · exact absurd (hbad.symm.trans htx) nofun
    · exact absurd (hbad.symm.trans hv) nofun
  · exact .inr ⟨f, hum, v, c, hf, hh, hv, hc⟩

/-- R175: not enforced, the checksum alone decides how DECODE of a good Temp+Humidity body ends. -/
theorem decodeTempHum_of_not_enforced {x : Snapshot} (hmax : 25 ≤ x.cfg.msgMax) (hfree : x.cfg.crcEnforced = false) {f : Fields}
    {hum v tx : Nat} {c : Byte} (hgood : TempHumBodyIs x f hum v c) (htx : hexValue [x.body 18, x.body 19] = some tx)
    (r : OutRegs) :
    decodeTempHum x r = if sumOk v f.sumTx
      then .ok ((commitFields ((writeDiagnostics r f v).writeCrcs c (byteOf tx)) f).commitHum (zext16 hum))
      else failWith .checksumMismatch ((writeDiagnostics r f v).writeCrcs c (byteOf tx)) := by
  obtain ⟨hf, hh, hv, hc⟩ := hgood
  rw [decodeTempHum_of_fields hmax hf hh htx hv hc, crcAllows_of_not_enforced hfree, Bool.and_true]

/-- R141: 25 characters are too many for sub-protocol 0xEC40. -/
theorem opDecode_of_tempOnly_long {x : Snapshot} {r q : OutRegs} (hsel : selectProtocol x r = .ok (.tempOnly, q))
    (hlen : x.len = 25) : opDecode x r = failWith .malformedLength q := by
  rw [opDecode_of_select hsel, hlen, if_pos (by decide)]

/-- R141: 25 characters are the length of a Temp+Humidity message. -/
theorem opDecode_of_tempHum {x : Snapshot} {r q : OutRegs} (hsel : selectProtocol x r = .ok (.tempHum, q))
    (hlen : x.len = 25) : opDecode x r = decodeTempHum x q := by
  rw [opDecode_of_select hsel, hlen, if_neg (by decide)]

/-- Two messages on which DECODE runs alike leave the same registers. -/
theorem exec_decode_withMsg_of_eq {s t : State} {m : Memory} (h : exec .decode s = .next t)
    (hop : opDecode (s.snapshot.withMsg m) s.regs.clear = opDecode s.snapshot s.regs.clear) :
    exec .decode (s.withMsg m) = .next (t.withMsg m) := by
  rw [exec_eq_runOperation, runOperation] at h ⊢
  exact (congrArg (finish (s.withMsg m)) hop).trans (finish_withMsg h m)

section OtherCrcDigits

variable {s t : State} {m : Memory} (hl : s.cfg.Legal) (hfree : s.cfg.crcEnforced = false) (hlen : s.msgLength = 25)
  (hm : ∀ q, q ≠ 23 → q ≠ 24 → m.read q = s.msgChar q)

include hm in
/-- The selector reads no CRC position (R63). -/
theorem selectProtocol_otherCrcDigits (r : OutRegs) : selectProtocol (s.snapshot.withMsg m) r = selectProtocol s.snapshot r := by
  have hread : ∀ p, SelectorReads s.msgLength p → p < 23 := by
    rintro p (⟨-, hp⟩ | ⟨-, hp⟩)
    · omega
    · revert p; decide
  refine selectProtocol_withMsg (fun p hp => hm p ?_ ?_) r
  · exact (hread p hp).ne
  · have := hread p hp
    omega

include hl hfree hlen hm in
/-- R175: other hex digits at the two CRC positions of a 25-character message. -/
theorem exec_decode_otherCrcDigits (h : exec .decode s = .next t)
    (htx : ∃ tx, hexValue [s.msgChar 23, s.msgChar 24] = some tx) (htx' : ∃ tx, hexValue [m.read 23, m.read 24] = some tx) :
    ∃ u, exec .decode (s.withMsg m) = .next u ∧ u.regs.SameButCrcTx t.regs := by
  obtain ⟨tx, htx⟩ := htx
  obtain ⟨tx', htx'⟩ := htx'
  have hmax : 25 ≤ s.snapshot.cfg.msgMax := hl.1
  have hsame := selectProtocol_otherCrcDigits hm s.regs.clear
  have alike (hop : opDecode (s.snapshot.withMsg m) s.regs.clear = opDecode s.snapshot s.regs.clear) :
      ∃ u, exec .decode (s.withMsg m) = .next u ∧ u.regs.SameButCrcTx t.regs :=
    ⟨_, exec_decode_withMsg_of_eq h hop, rfl⟩
  rcases selectProtocol_fails_or_selects hmax s.regs.clear with ⟨code, q, hsel, -⟩ | ⟨sp, hsel⟩
  · exact alike ((opDecode_of_select_fail (hsame.trans hsel)).trans (opDecode_of_select_fail hsel).symm)
  cases sp with
  | tempOnly =>
    exact alike ((opDecode_of_tempOnly_long (x := s.snapshot.withMsg m) (hsame.trans hsel) hlen).trans
      (opDecode_of_tempOnly_long hsel hlen).symm)
  | tempHum =>
    have hop := opDecode_of_tempHum hsel hlen
    have hop' := opDecode_of_tempHum (x := s.snapshot.withMsg m) (hsame.trans hsel) hlen
    have hbody (j : Nat) (hj : j < 18) : (s.snapshot.withMsg m).body j = s.snapshot.body j := hm (5 + j) (by omega) (by omega)
    rcases decodeTempHum_invalid_or_good hmax htx _ with ⟨hnot, hd⟩ | ⟨f, hum, v, c, hgood⟩
    · rcases decodeTempHum_invalid_or_good (x := s.snapshot.withMsg m) hmax htx' _ with ⟨-, hd'⟩ | ⟨f, hum, v, c, hgood⟩
      · exact alike ((hop'.trans hd').trans (hop.trans hd).symm)
      · exact absurd ((tempHumBodyIs_withMsg hbody).mp hgood) (hnot f hum v c)
    · have hop := hop.trans (decodeTempHum_of_not_enforced hmax hfree hgood htx _)
      have hop' := hop'.trans
        (decodeTempHum_of_not_enforced (x := s.snapshot.withMsg m) hmax hfree ((tempHumBodyIs_withMsg hbody).mpr hgood) htx' _)
      by_cases hsum : sumOk v f.sumTx = true
      · cases (runOperation_ok (op := opDecode) (hop.trans (if_pos hsum))).symm.trans h
        exact ⟨_, runOperation_ok (s := s.withMsg m) (hop'.trans (if_pos hsum)), rfl⟩
      · cases (runOperation_fail (op := opDecode) (hop.trans (if_neg hsum))).symm.trans h
        exact ⟨_, runOperation_fail (s := s.withMsg m) (hop'.trans (if_neg hsum)), rfl⟩

end OtherCrcDigits

/-! ### Enforced, only a matching CRC passes (R175) -/

/-- Of what commands leave with OK, a Temp+Humidity Reading and VALIDATE's result have a CRC, and both have passed its check. -/
theorem Leaves.crcMatch_of_crcPresent {s : State} {i : Instr} {q : OutRegs} (h : Leaves s i q) (he : s.cfg.crcEnforced = true)
    (hok : q.status = .ok) (hcrc : q.crcPresent = true) : q.crcMatch = true := by
  cases h with
  | codec | nothing | header | unknown | ident | selected | tempOnlyMismatch | tempOnly | tsum => cases hcrc
  | tempHumMismatch => cases hok
  | tempHum f v hum c t hlen hf hv hhum hpass =>
    rw [he, crcAllows_enforced] at hpass
    exact hpass
  | validate v c code hlen heven hv hcode =>
    have hcode : (if sumOk v s.ports.argSum && crcAllows s.cfg.crcEnforced c s.ports.argCrc then StatusCode.ok
        else .checksumMismatch) = .ok := hcode.symm.trans hok
    split at hcode
    · next hpass =>
      rw [Bool.and_eq_true, he, crcAllows_enforced] at hpass
      exact hpass.2
    · cases hcode

/-- Two characters that are hex digits spell a number. -/
theorem hexValue_pair_of_ne_none {c e : Byte} (hc : digitValue c ≠ none) (he : digitValue e ≠ none) :
    ∃ n, hexValue [c, e] = some n := by
  obtain ⟨a, ha⟩ := Option.ne_none_iff_exists'.mp hc
  obtain ⟨b, hb⟩ := Option.ne_none_iff_exists'.mp he
  exact ⟨_, hexValue_pair_eq_some.mpr ⟨a, b, ha, hb, rfl⟩⟩

/-- Settles O40: DECODE and VALIDATE without enforcement, and every command with it. -/
theorem crcGatesOnlyWhenEnforced : Obligations.CrcGatesOnlyWhenEnforced := by
  refine ⟨fun s t m hl hfree hlen hm h23 h24 h23' h24' h => ?_, fun s t tx _ hfree h => exec_validate_withArgCrc hfree h tx,
    fun i s t hl he h hok hcrc => ?_⟩
  · exact exec_decode_otherCrcDigits hl hfree hlen hm h (hexValue_pair_of_ne_none h23 h24) (hexValue_pair_of_ne_none h23' h24')
  · obtain ⟨q, hq, hleaves⟩ := exec_leaves i s hl
    cases hq.symm.trans h
    exact hleaves.crcMatch_of_crcPresent he hok hcrc

end Sys2Proof.Machine
end

section
/-! DECODE where it stops short of a checksum (R190): it ends as IDENT does up to SELECT, refuses a body of another length at BODYLEN
(R141), and refuses a bad digit in FIELDS or CHECK (R193, R194, R211). -/

namespace Sys2Proof.Machine

/-! ### DECODE and IDENT (R126, R190) -/

/-- IDENT ends where the selector does: with its error code, or with OK after a selection. -/
theorem selectProtocol_of_ident {s t : State} (hl : s.cfg.Legal) (h : exec .ident s = .next t) :
    (∃ code q, selectProtocol s.snapshot s.regs.clear = failWith code q ∧ code ≠ .ok ∧ t = s.setRegs (q.setStatus code))
      ∨ ∃ sp, selectProtocol s.snapshot s.regs.clear = .ok (sp, s.regs.clear.select sp)
          ∧ t = s.setRegs ((s.regs.clear.select sp).setStatus .ok) := by
  rcases selectProtocol_fails_or_selects (x := s.snapshot) hl.1 s.regs.clear with ⟨code, q, hsel, hcode⟩ | ⟨sp, hsel⟩
  · cases (exec_ident_of_fail hsel).symm.trans h
    exact .inl ⟨code, q, hsel, hcode, rfl⟩
  · cases (exec_ident_of_ok hsel).symm.trans h
    exact .inr ⟨sp, hsel, rfl⟩

/-- An IDENT that ends with OK has selected a sub-protocol. -/
theorem selectProtocol_of_ident_ok {s t : State} (hl : s.cfg.Legal) (h : exec .ident s = .next t) (hok : t.regs.status = .ok) :
    ∃ sp, selectProtocol s.snapshot s.regs.clear = .ok (sp, s.regs.clear.select sp)
      ∧ t = s.setRegs ((s.regs.clear.select sp).setStatus .ok) := by
  rcases selectProtocol_of_ident hl h with ⟨code, q, -, hcode, rfl⟩ | hsel
  · exact absurd hok hcode
  · exact hsel

/-- R61: the length of a message, header and sync included. -/
def messageLenOf (sp : SubProtocol) : Nat := 5 + bodyLenOf sp

theorem messageLenOf_eq_ite (sp : SubProtocol) : messageLenOf sp = if subprotoCode sp = 1 then 21 else 25 := by
  cases sp <;> rfl

/-- FIELDS, CHECK and COMMIT of a sub-protocol (R193 to R198). -/
def decodeBody : SubProtocol → Snapshot → OutRegs → Stage OutRegs
  | .tempOnly => decodeTempOnly
  | .tempHum => decodeTempHum

section Selected

variable {x : Snapshot} {r q : OutRegs} {sp : SubProtocol} (hsel : selectProtocol x r = .ok (sp, q))
include hsel

/-- R141: BODYLEN refuses every other length. -/
theorem opDecode_of_otherLength (hlen : x.len ≠ messageLenOf sp) : opDecode x r = failWith .malformedLength q := by
  have hpos : 0 < bodyLenOf sp := by cases sp <;> decide
  have hbody : x.len - 5 ≠ bodyLenOf sp := by
    rw [messageLenOf] at hlen
    omega
  rw [opDecode_of_select hsel, if_pos hbody]

theorem opDecode_of_messageLen (hlen : x.len = messageLenOf sp) : opDecode x r = decodeBody sp x q := by
  have hbody : ¬ x.len - 5 ≠ bodyLenOf sp := not_not.mpr (by rw [hlen, messageLenOf, Nat.add_sub_cancel_left])
  rw [opDecode_of_select hsel, if_neg hbody]
  cases sp <;> rfl

end Selected

/-- Settles O20: DECODE runs IDENT's selector first, and BODYLEN comes next. -/
theorem decodeSelectsAsIdentDoes : Obligations.DecodeSelectsAsIdentDoes := by
  refine fun s t hl h => ⟨fun hfail => ?_, fun hok hlen => ?_⟩
  · rcases selectProtocol_of_ident hl h with ⟨code, q, hsel, -, rfl⟩ | ⟨sp, -, rfl⟩
    · exact runOperation_fail (opDecode_of_select_fail hsel)
    · exact absurd rfl hfail
  · obtain ⟨sp, hsel, rfl⟩ := selectProtocol_of_ident_ok hl h hok
    exact (runOperation_fail (opDecode_of_otherLength hsel (hlen.trans_eq (messageLenOf_eq_ite sp).symm)) :)

/-! ### The digits DECODE needs (R193, R194, R211) -/

/-- The body positions whose characters must be hex digits: those of FIELDS and CHECK. -/
def decodePositions : SubProtocol → List Nat
  | .tempOnly => sumTxPositions .tempOnly ++ tempOnlySumPositions
  | .tempHum => (List.range 20).filter (· ≠ 1)

/-- The body positions whose digits must be below 10 (R145, R146): those of the temperature and the humidity. -/
def decimalPositions : SubProtocol → List Nat
  | .tempOnly => magnitudePositions
  | .tempHum => magnitudePositions ++ humidityPositions

/-- What FIELDS and CHECK need of a body. -/
def DigitsGood (x : Snapshot) (sp : SubProtocol) : Prop :=
  (∀ i ∈ decodePositions sp, (digitValue (x.body i)).isSome) ∧ ∀ i ∈ decimalPositions sp, (bcdDigit (x.body i)).isSome

theorem isSome_bcdDigit_of_bcdDecimal {cs : List Byte} {n : Nat} (h : bcdDecimal cs = some n) {c : Byte} (hc : c ∈ cs) :
    (bcdDigit c).isSome :=
  foldDigits_isSome_iff.mp (Option.isSome_of_eq_some h) c hc

/-- The temperature digits of good fields are decimal. -/
theorem FieldsAre.isSome_bcdDigit {x : Snapshot} {sp : SubProtocol} {f : Fields} (h : FieldsAre x sp f) :
    ∀ i ∈ magnitudePositions, (bcdDigit (x.body i)).isSome := by
  obtain ⟨_, _, _, _, _, -, -, -, hmag, -⟩ := h
  exact fun i hi => isSome_bcdDigit_of_bcdDecimal hmag (List.mem_map_of_mem (f := x.body) hi)

/-- The digits of a span whose checksum has a value (R171). -/
theorem isSome_digitValue_of_vsum {n : Nat} (hn : n % 2 = 0) {read : Nat → Byte} {v : Nat}
    (h : vsum (swapPairs ((List.range n).map read)) = some v) {i : Nat} (hi : i < n) (h1 : i ≠ 1) : (digitValue (read i)).isSome := by
  by_contra hbad
  exact absurd ((vsum_eq_none hn hi h1 (Option.not_isSome_iff_eq_none.mp hbad)).symm.trans h) nofun

theorem decodeTempOnly_invalid_or_digitsGood {x : Snapshot} (hmax : 25 ≤ x.cfg.msgMax) (r : OutRegs) :
    decodeTempOnly x r = failWith .invalidDigit r ∨ DigitsGood x .tempOnly := by
  rcases decodeTempOnly_cases hmax r with ⟨-, h⟩ | ⟨f, v, hf, hv, -⟩
  · exact .inl h
  · have hsum := List.forall_mem_map.mp (digitSum_isSome_iff.mp (Option.isSome_of_eq_some hv))
    obtain ⟨-, htx⟩ := List.forall_mem_append.mp hf.isSome_digitValue
    exact .inr ⟨List.forall_mem_append.mpr ⟨htx, hsum⟩, hf.isSome_bcdDigit⟩

theorem decodeTempHum_invalid_or_digitsGood {x : Snapshot} (hmax : 25 ≤ x.cfg.msgMax) (r : OutRegs) :
    decodeTempHum x r = failWith .invalidDigit r ∨ DigitsGood x .tempHum := by
  rcases decodeTempHum_cases hmax r with ⟨-, h⟩ | ⟨f, hum, crc, v, c, hf, hh, hcrc, hv, -, -⟩
  · exact .inl h
  · have hspan (i : Nat) (hi : i < 16) (h1 : i ≠ 1) : (digitValue (x.body i)).isSome :=
      isSome_digitValue_of_vsum (by decide) hv hi h1
    obtain ⟨-, htx⟩ := List.forall_mem_append.mp hf.isSome_digitValue
    have hcrc : ∀ i ∈ crcTxPositions, (digitValue (x.body i)).isSome := fun i hi =>
      isSome_digitValue_of_hexValue hcrc (List.mem_map_of_mem (f := x.body) hi)
    have hhum : ∀ i ∈ humidityPositions, (bcdDigit (x.body i)).isSome := fun i hi =>
      isSome_bcdDigit_of_bcdDecimal hh (List.mem_append_left [humidityLastDigit] (List.mem_map_of_mem (f := x.body) hi))
    refine .inr ⟨fun i hi => ?_, List.forall_mem_append.mpr ⟨hf.isSome_bcdDigit, hhum⟩⟩
    have hcover : ∀ i ∈ decodePositions .tempHum, (i < 16 ∧ i ≠ 1) ∨ i ∈ sumTxPositions .tempHum ++ crcTxPositions := by decide
    rcases hcover i hi with ⟨hlt, h1⟩ | hi
    · exact hspan i hlt h1
    · exact List.forall_mem_append.mpr ⟨htx, hcrc⟩ i hi

/-- The stages after BODYLEN end with INVALID_DIGIT, unless every digit is good. -/
theorem decodeBody_invalid_or_digitsGood {x : Snapshot} (hmax : 25 ≤ x.cfg.msgMax) (sp : SubProtocol) (r : OutRegs) :
    decodeBody sp x r = failWith .invalidDigit r ∨ DigitsGood x sp := by
  cases sp with
  | tempOnly => exact decodeTempOnly_invalid_or_digitsGood hmax r
  | tempHum => exact decodeTempHum_invalid_or_digitsGood hmax r

/-- R211: a bad digit, as the characters of the body show it. -/
theorem not_digitsGood {s : State} {sp : SubProtocol} {i : Nat} (hi : i ∈ decodePositions sp)
    (hbad : s.bodyDigit i = none ∨ ∃ d, s.bodyDigit i = some d ∧ 10 ≤ d.toNat ∧ i ∈ decimalPositions sp) :
    ¬ DigitsGood s.snapshot sp := by
  rintro ⟨hdigit, hdecimal⟩
  rcases hbad with hnone | ⟨d, hd, hge, hi⟩
  · exact absurd (hdigit i hi) (Option.not_isSome_iff_eq_none.mpr hnone)
  · refine absurd (hdecimal i hi) (Option.not_isSome_iff_eq_none.mpr (bcdDigit_eq_none.mpr fun e he => ?_))
    cases hd.symm.trans he
    exact hge

theorem mem_decodePositions_of_ite {sp : SubProtocol} {i : Nat}
    (h : if subprotoCode sp = 1 then i < 16 ∧ i ≠ 1 ∧ i ≠ 14 else i < 20 ∧ i ≠ 1) : i ∈ decodePositions sp := by
  cases sp with
  | tempOnly => exact mem_tsumPositions.mpr h
  | tempHum => simpa [decodePositions, subprotoCode] using h

theorem mem_decimalPositions_of_or {sp : SubProtocol} {i : Nat}
    (h : i ∈ [8, 10, 11] ∨ (subprotoCode sp = 2 ∧ i ∈ [12, 15])) : i ∈ decimalPositions sp := by
  rcases h with hi | ⟨hsp, hi⟩
  · revert i
    cases sp <;> decide
  · cases subprotoCode_eq_two.mp hsp
    revert i
    decide

/-- Settles O21: past BODYLEN DECODE ends with INVALID_DIGIT unless every digit is good, and one is bad. -/
theorem decodeRejectsABadDigit : Obligations.DecodeRejectsABadDigit := by
  rintro s t hl h hok hlen ⟨i, hi, hbad⟩
  obtain ⟨sp, hsel, rfl⟩ := selectProtocol_of_ident_ok hl h hok
  have hnot : ¬ DigitsGood s.snapshot sp :=
    not_digitsGood (mem_decodePositions_of_ite hi) <| hbad.imp_right fun ⟨d, hd, hge, hpos⟩ =>
      ⟨d, hd, hge, mem_decimalPositions_of_or hpos⟩
  have hbody := (decodeBody_invalid_or_digitsGood (x := s.snapshot) hl.1 sp (s.regs.clear.select sp)).resolve_right hnot
  exact (runOperation_fail ((opDecode_of_messageLen hsel (hlen.trans (messageLenOf_eq_ite sp).symm)).trans hbody) :)

end Sys2Proof.Machine
end

section
/-! DECODE of a message whose digits are all good (R192 to R198): what its stages make of the digits, and the two ways CHECK can go
for each sub-protocol. -/

namespace Sys2Proof.Machine

/-! ### What the stages make of good digits -/

/-- A message of sub-protocol `sp` that reaches CHECK, with the digits `d` of its body (R190). -/
structure GoodMessage (s : State) (sp : SubProtocol) (d : Nat → Nibble) : Prop where
  /-- R8. -/
  legal : s.cfg.Legal
  /-- R61. -/
  length : s.msgLength = messageLenOf sp
  /-- R120. -/
  header : s.HeaderMatches
  /-- Every character DECODE reads in the body is a hex digit. -/
  digit : ∀ i ∈ decodePositions sp, s.bodyDigit i = some (d i)
  /-- R122, R124. -/
  familyId : d 0 ++ d 3 ++ d 2 ++ d 5 = familyIdOf sp
  /-- R145, R146. -/
  decimal : ∀ i ∈ decimalPositions sp, (d i).toNat < 10

theorem selectById_familyIdOf (sp : SubProtocol) : selectById (familyIdOf sp) = some sp := by
  cases sp <;> decide

/-- Three decimal digits spell their number (R104). -/
theorem bcdDecimal_three {a b c : Byte} {p q r : Nibble} (ha : bcdDigit a = some p) (hb : bcdDigit b = some q)
    (hc : bcdDigit c = some r) : bcdDecimal [a, b, c] = some (100 * p.toNat + 10 * q.toNat + r.toNat) := by
  rw [bcdDecimal, foldDigits_cons_some ha, foldDigits_cons_some hb, foldDigits_cons_some hc, foldDigits_nil]
  congr 1
  omega

/-- Two digits side by side pass as a checksum exactly if they spell it in base 16 (R147 to R149). -/
theorem sumOk_append_iff {v : Nat} (hv : v < 65536) (a b : Nibble) :
    sumOk v (a ++ b) = true ↔ v = 16 * a.toNat + b.toNat := by
  rw [sumOk_iff hv, toNat_append_nibble, Nat.mul_comm]

/-- R145, R198: COMMIT of the fields that the digits `d` spell. -/
theorem commitFields_fieldsOf (r : OutRegs) (cfg : Config) (d : Nat → Nibble) (tx : Byte) :
    commitFields r (fieldsOf cfg d tx) = r.commitCommon
      (BitVec.ofInt 16 ((if (d 13).getLsbD 3 then -1 else 1) * (100 * (d 10).toNat + 10 * (d 11).toNat + (d 8).toNat : Int)))
      ((d 13).getLsbD 3) ((d 9).getLsbD 2) cfg.channelMap[(d 4).toNat] := by
  have hmag : ((fieldsOf cfg d tx).mag : Int) = 100 * (d 10).toNat + 10 * (d 11).toNat + (d 8).toNat := by simp [fieldsOf]
  rw [commitFields, signedTenths_eq_mul, hmag]
  rfl

namespace GoodMessage

variable {s : State} {sp : SubProtocol} {d : Nat → Nibble} (h : GoodMessage s sp d)
include h

theorem le_msgMax : 25 ≤ s.snapshot.cfg.msgMax := h.legal.1

/-- The two sub-protocols share the selector's and the fields' positions. -/
theorem digitValue_body {i : Nat} (hi : i ∈ subIdPositions ++ [4, 6, 7, 8, 9, 10, 11, 13] ++ sumTxPositions sp) :
    digitValue (s.snapshot.body i) = some (d i) := by
  refine h.digit i ?_
  revert i
  cases sp <;> decide

theorem bcdDigit_body {i : Nat} (hi : i ∈ decimalPositions sp) : bcdDigit (s.snapshot.body i) = some (d i) := by
  have hread : i ∈ decodePositions sp := by
    revert i
    cases sp <;> decide
  exact bcdDigit_eq_some.mpr ⟨h.digit i hread, h.decimal i hi⟩

/-- R120 to R123. -/
theorem selectProtocol_eq_ok (r : OutRegs) : selectProtocol s.snapshot r = .ok (sp, r.select sp) := by
  have hlen : 11 < s.msgLength := by
    rw [h.length]
    cases sp <;> decide
  have hds : [5, 8, 7, 10].map s.msgDigit = [d 0, d 3, d 2, d 5].map some :=
    List.map_congr_left (l := subIdPositions) fun i hi =>
      h.digitValue_body (List.mem_append_left _ (List.mem_append_left _ hi))
  rw [selectProtocol_of_digits h.legal r hlen h.header hds, h.familyId, stageSelect, OutRegs.writeFamilyId_familyId,
    selectById_familyIdOf]
  rfl

/-- R193: the fields, with the transmitted checksum at the positions `a` and `b`. -/
theorem fieldsAre {a b : Nat} (hab : sumTxPositions sp = [a, b]) :
    FieldsAre s.snapshot sp (fieldsOf s.cfg d (d a ++ d b)) := by
  have hdec {i : Nat} (hi : i ∈ magnitudePositions) : bcdDigit (s.snapshot.body i) = some (d i) :=
    h.bcdDigit_body (by cases sp with | tempOnly => exact hi | tempHum => exact List.mem_append_left _ hi)
  have hrolling := hexValue_pair_eq_some.mpr
    ⟨d 7, d 6, h.digitValue_body (i := 7) (by simp), h.digitValue_body (i := 6) (by simp), rfl⟩
  have htx := hexValue_pair_eq_some.mpr
    ⟨d a, d b, h.digitValue_body (i := a) (by simp [hab]), h.digitValue_body (i := b) (by simp [hab]), rfl⟩
  refine ⟨d 4, _, d 9, d 13, _, h.digitValue_body (by simp), hrolling, h.digitValue_body (by simp),
    bcdDecimal_three (hdec (by decide)) (hdec (by decide)) (hdec (by decide)), h.digitValue_body (by simp),
    (congrArg (fun l => hexValue (l.map s.snapshot.body)) hab).trans htx, ?_⟩
  rw [byteOf_toNat, byteOf_toNat, batteryBit_eq, signBit_eq]
  rfl

/-- R190: DECODE goes on to FIELDS. -/
theorem opDecode_eq : opDecode s.snapshot s.regs.clear = decodeBody sp s.snapshot (s.regs.clear.select sp) :=
  opDecode_of_messageLen (h.selectProtocol_eq_ok _) h.length

end GoodMessage

/-! ### CHECK and COMMIT of a Temp-only message (R196, R198) -/

section TempOnly

variable {s : State} {d : Nat → Nibble}

theorem goodMessage_tempOnly (hl : s.cfg.Legal) (hlen : s.msgLength = 21) (hh : s.HeaderMatches)
    (hd : ∀ i ∈ [0, 2, 3, 4, 5, 6, 7, 8, 9, 10, 11, 12, 13, 15], s.bodyDigit i = some (d i))
    (h0 : d 0 = 0xE) (h3 : d 3 = 0xC) (h2 : d 2 = 0x4) (h5 : d 5 = 0x0) (hdec : ∀ i ∈ [8, 10, 11], (d i).toNat < 10) :
    GoodMessage s .tempOnly d where
  legal := hl
  length := hlen
  header := hh
  digit i hi := hd i (by revert i; decide)
  familyId := by rw [h0, h3, h2, h5]; rfl
  decimal i hi := hdec i (by revert i; decide)

/-- R195: what DECODE has written when CHECK compares. -/
def State.checkedTempOnly (s : State) (d : Nat → Nibble) : OutRegs :=
  writeDiagnostics (s.regs.clear.select .tempOnly) (fieldsOf s.cfg d (d 15 ++ d 12)) (tempOnlyDigitSum d)

/-- R196: the checksum alone decides. -/
theorem opDecode_of_goodTempOnly (h : GoodMessage s .tempOnly d) : opDecode s.snapshot s.regs.clear =
    if tempOnlyDigitSum d = 16 * (d 15).toNat + (d 12).toNat
    then .ok (commitFields (s.checkedTempOnly d) (fieldsOf s.cfg d (d 15 ++ d 12)))
    else failWith .checksumMismatch (s.checkedTempOnly d) := by
  have hsum : digitSum (tempOnlySumPositions.map s.snapshot.body) 0 = some (tempOnlyDigitSum d) :=
    digitSum_tempOnlySumPositions fun i hi => h.digit i (List.mem_append_right _ hi)
  have hlt : tempOnlyDigitSum d < 65536 := Nat.lt_of_le_of_lt (tempOnly_sum_le hsum) (by decide)
  rw [h.opDecode_eq, decodeBody, decodeTempOnly_of_fields h.le_msgMax (h.fieldsAre rfl) hsum]
  exact if_congr (sumOk_append_iff hlt ..) rfl rfl

end TempOnly

/-- Settles O16: the checksum matches, so COMMIT writes the fields. -/
theorem decodeAcceptsATempOnlyMessage : Obligations.DecodeAcceptsATempOnlyMessage := by
  intro s d hl hlen hh hd h0 h3 h2 h5 hdec hsum
  have hop := opDecode_of_goodTempOnly (goodMessage_tempOnly hl hlen hh hd h0 h3 h2 h5 hdec)
  rw [if_pos hsum, commitFields_fieldsOf] at hop
  exact runOperation_ok hop

/-- Settles O17: the checksum does not match, so the diagnostics are the last thing written. -/
theorem decodeRejectsAWrongTempOnlyChecksum : Obligations.DecodeRejectsAWrongTempOnlyChecksum := by
  intro s d hl hlen hh hd h0 h3 h2 h5 hdec hsum
  have hop := opDecode_of_goodTempOnly (goodMessage_tempOnly hl hlen hh hd h0 h3 h2 h5 hdec)
  rw [if_neg hsum] at hop
  exact runOperation_fail hop

/-! ### CHECK and COMMIT of a Temp+Humidity message (R174, R175, R198) -/

section TempHum

variable {s : State} {d : Nat → Nibble}

theorem goodMessage_tempHum (hl : s.cfg.Legal) (hlen : s.msgLength = 25) (hh : s.HeaderMatches)
    (hd : ∀ i, i < 20 → i ≠ 1 → s.bodyDigit i = some (d i))
    (h0 : d 0 = 0x1) (h3 : d 3 = 0xD) (h2 : d 2 = 0x2) (h5 : d 5 = 0x0)
    (hdec : ∀ i ∈ [8, 10, 11, 12, 15], (d i).toNat < 10) : GoodMessage s .tempHum d where
  legal := hl
  length := hlen
  header := hh
  digit i hi := by
    have hpos : i < 20 ∧ i ≠ 1 := by simpa [decodePositions] using hi
    exact hd i hpos.1 hpos.2
  familyId := by rw [h0, h3, h2, h5]; rfl
  decimal i hi := hdec i (by revert i; decide)

/-- R174, R175: the checksum matches, and the CRC if it is enforced. -/
abbrev TempHumPasses (cfg : Config) (d : Nat → Nibble) : Prop :=
  spanDigitSum 16 d = 16 * (d 16).toNat + (d 17).toNat ∧ (cfg.crcEnforced = true → bodyOrderCrc d = d 18 ++ d 19)

/-- R195: what DECODE has written when CHECK compares. -/
def State.checkedTempHum (s : State) (d : Nat → Nibble) : OutRegs :=
  (writeDiagnostics (s.regs.clear.select .tempHum) (fieldsOf s.cfg d (d 16 ++ d 17)) (spanDigitSum 16 d)).writeCrcs
    (bodyOrderCrc d) (d 18 ++ d 19)

/-- R174, R175: the checksum and an enforced CRC decide. -/
theorem opDecode_of_goodTempHum (h : GoodMessage s .tempHum d) : opDecode s.snapshot s.regs.clear =
    if TempHumPasses s.cfg d
    then .ok ((commitFields (s.checkedTempHum d) (fieldsOf s.cfg d (d 16 ++ d 17))).commitHum
      (zext16 (100 * (d 15).toNat + 10 * (d 12).toNat)))
    else failWith .checksumMismatch (s.checkedTempHum d) := by
  have hdigit (i : Nat) (hi : i < 20) (h1 : i ≠ 1) : digitValue (s.snapshot.body i) = some (d i) :=
    h.digit i (by simpa [decodePositions] using ⟨hi, h1⟩)
  have hspan (i : Nat) (hi : i < 16) : i ≠ 1 → digitValue (s.snapshot.body i) = some (d i) := hdigit i (by omega)
  have hhum := bcdDecimal_three (h.bcdDigit_body (i := 15) (by decide)) (h.bcdDigit_body (i := 12) (by decide))
    (by decide : bcdDigit humidityLastDigit = some 0)
  have hcrc := hexValue_pair_eq_some.mpr ⟨_, _, hdigit 18 (by decide) (by decide), hdigit 19 (by decide) (by decide), rfl⟩
  have hpass : (sumOk (spanDigitSum 16 d) (d 16 ++ d 17) && crcAllows s.cfg.crcEnforced (bodyOrderCrc d) (d 18 ++ d 19)) = true
      ↔ TempHumPasses s.cfg d := by
    rw [Bool.and_eq_true, sumOk_append_iff (spanDigitSum_lt (by decide) d), crcAllows_iff]
  rw [h.opDecode_eq, decodeBody, decodeTempHum_of_fields h.le_msgMax (h.fieldsAre rfl) hhum hcrc (vsum_of_digits (by decide) hspan)
    (vcrc_of_digits (by decide) hspan), byteOf_toNat, spanDigitCrc_sixteen]
  exact if_congr hpass rfl rfl

end TempHum

/-- Settles O18: every check passes, so COMMIT writes the fields and the humidity. -/
theorem decodeAcceptsATempHumMessage : Obligations.DecodeAcceptsATempHumMessage := by
  intro s d hl hlen hh hd h0 h3 h2 h5 hdec hsum hcrc
  have hop := opDecode_of_goodTempHum (goodMessage_tempHum hl hlen hh hd h0 h3 h2 h5 hdec)
  rw [if_pos ⟨hsum, hcrc⟩, commitFields_fieldsOf] at hop
  exact runOperation_ok hop

/-- Settles O19: a check fails, so the diagnostics are the last thing written. -/
theorem decodeRejectsAFailedTempHumCheck : Obligations.DecodeRejectsAFailedTempHumCheck := by
  intro s d hl hlen hh hd h0 h3 h2 h5 hdec hbad
  have hfail : ¬ TempHumPasses s.cfg d := fun ⟨hsum, hcrc⟩ =>
    hbad.elim (· hsum) fun ⟨henforced, hother⟩ => hother (hcrc henforced)
  have hop := opDecode_of_goodTempHum (goodMessage_tempHum hl hlen hh hd h0 h3 h2 h5 hdec)
  rw [if_neg hfail] at hop
  exact runOperation_fail hop

end Sys2Proof.Machine
end

section
/-! Errors end an operation and never the machine (R210, R214): a run from a state that meets the invariant never stops, and a command
that fails leaves no more than R214 lists, which is read off what commands leave. -/

namespace Sys2Proof.Machine

/-! ### Runs (R210, R247) -/

/-- A run takes its first step, then runs on from where that step led. -/
theorem run_succ_of_step {M : Host.Core} {s t : M.State} (h : M.step s = .next t) (n : Nat) :
    M.run (n + 1) s = M.run n t := by
  rw [Host.Core.run, h]

/-- Settles O43: each step completes in a state that meets the invariant (`step_completes`), by induction on the number of steps. -/
theorem runsNeverStop : Obligations.RunsNeverStop := by
  intro s hs n
  induction n generalizing s with
  | zero => exact ⟨s, rfl, hs⟩
  | succ n ih =>
    obtain ⟨t, hstep, ht, -⟩ := step_completes hs
    obtain ⟨u, hrun, hu⟩ := ih t ht
    exact ⟨u, (run_succ_of_step (M := core) hstep n).trans hrun, hu⟩

/-! ### What a failure leaves (R29, R197, R212, R214) -/

/-- A check ends with OK or CHECKSUM_MISMATCH (R150, R176). -/
theorem code_of_check {pass : Bool} {code : StatusCode} (h : code = if pass then .ok else .checksumMismatch) :
    code = .ok ∨ code = .checksumMismatch := by
  cases pass
  · exact .inr h
  · exact .inl h

namespace Leaves

variable {s : State} {i : Instr} {q : OutRegs} (h : Leaves s i q)
include h

/-- Only a codec operation writes `RESULT`, and only with OK (R101, R103, R105). -/
theorem result_eq_zero (hfail : q.status ≠ .ok) : q.result = 0 := by
  cases h with
  | codec => exact absurd rfl hfail
  | _ => rfl

/-- `VALID` and the Reading fields are written by COMMIT alone (R197, R198). -/
theorem noReading (hl : s.cfg.Legal) (hfail : q.status ≠ .ok) : q.valid = false ∧ q.FieldsZero :=
  have hv : q.valid = false := Bool.eq_false_iff.mpr fun ht => hfail (h.valid_iff.mp ht).2
  ⟨hv, (h.sound hl).fieldsZero hv⟩

/-- HEADER writes `HAS_READING` and `CLASS` together, and nothing else writes either (R120). -/
theorem hasReading_iff : q.hasReading = true ↔ q.sensorClass = 1 := by
  cases h with
  | codec | nothing | tsum | validate => exact iff_of_false nofun nofun
  | _ => exact iff_of_true rfl rfl

/-- A failure that is no CHECKSUM_MISMATCH comes before any check: nothing is written yet, or HEADER and SELECT have written what
they found, or SELECT did not know the ID that SUBID wrote (R190). -/
theorem failure_before_check (hok : q.status ≠ .ok) (hsum : q.status ≠ .checksumMismatch) :
    (∃ code, code ≠ .unknownSubprotocol ∧ q = { OutRegs.reset with status := code })
      ∨ ((q.status = .invalidDigit ∨ q.status = .malformedLength)
          ∧ (q = OutRegs.afterHeader q.status ∨ ∃ sp, q = OutRegs.afterSelect q.status sp))
      ∨ ∃ id : Half, (id ≠ 0xEC40 ∧ id ≠ 0x1D20)
          ∧ q = (OutRegs.reset.writeHeader.writeFamilyId id).setStatus .unknownSubprotocol := by
  cases h with
  | nothing i code hc => exact .inl ⟨code, by rcases hc with rfl | rfl | rfl | rfl <;> decide, rfl⟩
  | header i code hi hc => exact .inr (.inl ⟨hc, .inl rfl⟩)
  | selected code sp hc => exact .inr (.inl ⟨hc, .inr ⟨sp, rfl⟩⟩)
  | unknown i id hi hid => exact .inr (.inr ⟨id, hid, rfl⟩)
  | codec | ident | tempOnly | tempHum => exact absurd rfl hok
  | tempOnlyMismatch | tempHumMismatch => exact absurd rfl hsum
  | tsum v t code hv hc => exact ((code_of_check hc).elim hok hsum).elim
  | validate v c code hlen heven hv hc => exact ((code_of_check hc).elim hok hsum).elim

/-- The diagnostics are written just before `pass` is tested (R195), so a failure before any check shows none. -/
theorem diagnosticsZero (hok : q.status ≠ .ok) (hsum : q.status ≠ .checksumMismatch) : q.DiagnosticsZero := by
  rcases h.failure_before_check hok hsum with ⟨code, -, hq⟩ | ⟨-, hq | ⟨sp, hq⟩⟩ | ⟨id, -, hq⟩ <;> rw [hq] <;>
    exact ⟨rfl, rfl, rfl, rfl, rfl, rfl, rfl⟩

/-- NO_DECODER comes from HEADER, before it writes anything (R120). -/
theorem hasReading_of_noDecoder (hcode : q.status = .noDecoder) : q.hasReading = false := by
  rcases h.failure_before_check (by simp [hcode]) (by simp [hcode]) with
    ⟨code, -, rfl⟩ | ⟨hc, -⟩ | ⟨id, -, rfl⟩
  · rfl
  · exact absurd (hcode ▸ hc) (by decide)
  · cases hcode

/-- UNKNOWN_SUBPROTOCOL comes from SELECT, on the ID that SUBID has written (R122, R123). -/
theorem eq_of_unknownSubprotocol (hcode : q.status = .unknownSubprotocol) :
    ∃ id : Half, (id ≠ 0xEC40 ∧ id ≠ 0x1D20)
      ∧ q = (OutRegs.reset.writeHeader.writeFamilyId id).setStatus .unknownSubprotocol := by
  rcases h.failure_before_check (by simp [hcode]) (by simp [hcode]) with
    ⟨code, hc, rfl⟩ | ⟨hc, -⟩ | hid
  · exact absurd hcode hc
  · exact absurd (hcode ▸ hc) (by decide)
  · exact hid

end Leaves

/-- Settles O37: each clause is read off what the command leaves. -/
theorem failureLeavesNoPartialResult : Obligations.FailureLeavesNoPartialResult := by
  intro i s t hl h hfail
  obtain ⟨q, hq, hleaves⟩ := exec_leaves i s hl
  cases hq.symm.trans h
  obtain ⟨hvalid, hfields⟩ := hleaves.noReading hl hfail
  refine ⟨hleaves.result_eq_zero hfail, hvalid, hfields, hleaves.diagnosticsZero hfail, hleaves.hasReading_iff,
    hleaves.hasReading_of_noDecoder, fun hcode => ?_⟩
  obtain ⟨id, ⟨hto, hth⟩, rfl⟩ := hleaves.eq_of_unknownSubprotocol hcode
  exact ⟨rfl, rfl, hto, hth⟩

end Sys2Proof.Machine
end

section
/-! Reset and progress: asserting `RESET` restores every register (R240), and every command ends with its own status code, never with
the IDLE of reset (R211, R247). -/

namespace Sys2Proof.Machine

/-- Settles O4: the step is the reset alone (`step_of_asserted`), and only `STATUS` is not 0 in the reset register file. -/
theorem resetRestoresEveryRegister : Obligations.ResetRestoresEveryRegister := fun s hreset =>
  ⟨s.assertReset, step_of_asserted hreset, rfl, fun _ => OutRegs.reset_get_of_ne_status, rfl, rfl⟩

/-- R211: IDLE is no command's outcome. A failure leaves its own code, a check OK or CHECKSUM_MISMATCH, and every other end a fixed
code. -/
theorem Leaves.status_ne_idle {s : State} {i : Instr} {q : OutRegs} (h : Leaves s i q) : q.status ≠ .idle := by
  cases h with
  | nothing i code hc => rcases hc with rfl | rfl | rfl | rfl <;> nofun
  | header i code hi hc => rcases hc with rfl | rfl <;> nofun
  | selected code sp hc => rcases hc with rfl | rfl <;> nofun
  | tsum v t code hv hc => rcases code_of_check hc with rfl | rfl <;> nofun
  | validate v c code hlen heven hv hc => rcases code_of_check hc with rfl | rfl <;> nofun
  | codec | unknown | ident | tempOnlyMismatch | tempOnly | tempHumMismatch | tempHum => nofun

/-- Settles O32: a command ends with a register file that `Leaves` lists (`exec_leaves`), and none of them holds IDLE. -/
theorem everyCommandCompletes : Obligations.EveryCommandCompletes := by
  intro i s hl
  obtain ⟨q, hq, hleaves⟩ := exec_leaves i s hl
  exact ⟨s.setRegs q, hq, hleaves.status_ne_idle⟩

end Sys2Proof.Machine
end
